-- ==== Sys2Proof/Word.lean ====
section
/-!
DEFINITION. The two machine words: a byte of the image buffer and the 32-bit word of commands, responses and data
registers (spec 00_scope R7, R9).
-/

namespace Sys2Proof

/-- `u8`: one image byte, or one byte on the sensor bus (R9). -/
abbrev Byte := BitVec 8

/-- The 32-bit word: a command (R80), a response value (R36), a data register (R20). -/
abbrev Word := BitVec 32

end Sys2Proof
end

