-- ==== Sys2Proof/Syntax.lean ====
section
/-!
DEFINITION. The command set (30_encoding R84, spec/opcode_table.json): one constructor per row of the table, and the
reasons for which a word is no command (R88).
-/

namespace Sys2Proof

/-- The register an `RDR` reads (R85). -/
inductive RdrSel where
  | tOut
  | pOut
  | hOut
  | tFine
  | status
  | adcT
  | adcP
  | adcH
  deriving DecidableEq, Repr

/-- The commands: the 14 rows of R84, operands as the fields of R80 to R83 give them. -/
inductive Instr where
  /-- `NOP` (R100). -/
  | nop
  /-- `WRB addr, data` (R101). -/
  | wrb (addr data : Byte)
  /-- `RDB addr` (R102). -/
  | rdb (addr : Byte)
  /-- `CALDEC` (R120). -/
  | caldec
  /-- `RAWDEC` (R125). -/
  | rawdec
  /-- `SETADC T, imm20` (R128). -/
  | setadcT (imm : BitVec 20)
  /-- `SETADC P, imm20` (R128). -/
  | setadcP (imm : BitVec 20)
  /-- `SETADC H, imm16` (R128). -/
  | setadcH (imm : BitVec 16)
  /-- `COMPT` (R150). -/
  | compt
  /-- `COMPP` (R155). -/
  | compp
  /-- `COMPH` (R160). -/
  | comph
  /-- `RDR sel` (R180). -/
  | rdr (sel : RdrSel)
  /-- `RDC k` (R182); the field has five bits, legal values are 0 to 17 (R83). -/
  | rdc (k : BitVec 5)
  /-- `SRST` (R103). -/
  | srst
  deriving DecidableEq, Repr

/-- Why a word is illegal: the groups of R88's list. All of them raise the one fault `ILLEGAL_COMMAND` (R231);
the names are the model's (DESIGN CHOICE, assumption 20). -/
inductive Illegal where
  /-- The opcode is in `0x0B..0x0E` or `0x10..0xFF`. -/
  | unassignedOpcode
  /-- A field that the format shows as zero is not zero (R86). -/
  | reservedField
  /-- A selector of `SETADC` in 3..15, or of `RDR` in 8..15 (R85). -/
  | badSelector
  /-- `SETADC H` with `word[19:16]` not zero (R83). -/
  | wideHumidityCode
  /-- `RDC` with `k` in 18..31 (R84). -/
  | badIndex
  deriving DecidableEq, Repr

end Sys2Proof
end

