-- ==== Sys2Proof/WellFormed.lean ====
section
/-!
DEFINITION. Which terms of Instr are commands. Every operand field is exactly as wide as its type but for the index of
`RDC`, whose five bits hold more than the 18 legal values (30_encoding R83, R84).
-/

namespace Sys2Proof

/-- The extra condition of R84's last column: `RDC` needs `k <= 17`. No other row has one. -/
def Instr.wellFormed : Instr → Bool
  | .rdc k => k.toNat ≤ 17
  | .nop => true
  | .wrb _ _ => true
  | .rdb _ => true
  | .caldec => true
  | .rawdec => true
  | .setadcT _ => true
  | .setadcP _ => true
  | .setadcH _ => true
  | .compt => true
  | .compp => true
  | .comph => true
  | .rdr _ => true
  | .srst => true

end Sys2Proof
end

