-- ==== Sys2Proof/Decode.lean ====
section
/-!
DEFINITION. The decoder, total on 32-bit words (30_encoding R80 to R88), and the encoder written from the same tables.
-/

namespace Sys2Proof

/-- `word[31:24]` (R80). -/
def Word.opcode (w : Word) : Byte := w.extractLsb' 24 8

/-- `word[23:20]` (R80). -/
def Word.sel (w : Word) : BitVec 4 := w.extractLsb' 20 4

/-- `word[19:0]` (R80). -/
def Word.imm20 (w : Word) : BitVec 20 := w.extractLsb' 0 20

/-- The selector values of `RDR` (R85). -/
def RdrSel.ofCode (c : BitVec 3) : RdrSel :=
  match c.toNat with
  | 0 => .tOut
  | 1 => .pOut
  | 2 => .hOut
  | 3 => .tFine
  | 4 => .status
  | 5 => .adcT
  | 6 => .adcP
  | _ => .adcH

/-- The selector values of `RDR`, the other way round (R85). -/
def RdrSel.code : RdrSel → BitVec 3
  | .tOut => 0#3
  | .pOut => 1#3
  | .hOut => 2#3
  | .tFine => 3#3
  | .status => 4#3
  | .adcT => 5#3
  | .adcP => 6#3
  | .adcH => 7#3

/-- Format Z (R81): every bit below the opcode is zero. -/
def decodeZ (w : Word) (i : Instr) : Except Illegal Instr :=
  if w.extractLsb' 0 24 = 0#24 then .ok i else .error .reservedField

/-- `WRB`, format B (R81, R82). -/
def decodeWrb (w : Word) : Except Illegal Instr :=
  if w.extractLsb' 16 8 = 0#8 then .ok (.wrb (w.extractLsb' 8 8) (w.extractLsb' 0 8)) else .error .reservedField

/-- `RDB`, format B with its data byte zero (R81, R82). -/
def decodeRdb (w : Word) : Except Illegal Instr :=
  if w.extractLsb' 16 8 = 0#8 ∧ w.extractLsb' 0 8 = 0#8 then .ok (.rdb (w.extractLsb' 8 8)) else .error .reservedField

/-- `SETADC`, format S (R81, R83, R85): three selectors, and a 16-bit code for `H`. -/
def decodeSetadc (w : Word) : Except Illegal Instr :=
  match w.sel.toNat with
  | 0 => .ok (.setadcT w.imm20)
  | 1 => .ok (.setadcP w.imm20)
  | 2 => if w.extractLsb' 16 4 = 0#4 then .ok (.setadcH (w.extractLsb' 0 16)) else .error .wideHumidityCode
  | _ => .error .badSelector

/-- `RDR`, format S with its immediate zero (R81, R85). -/
def decodeRdr (w : Word) : Except Illegal Instr :=
  if w.extractLsb' 23 1 = 1#1 then .error .badSelector
  else if w.imm20 = 0#20 then .ok (.rdr (RdrSel.ofCode (w.extractLsb' 20 3))) else .error .reservedField

/-- `RDC`, format K (R81, R83) with R84's extra condition. -/
def decodeRdc (w : Word) : Except Illegal Instr :=
  if w.extractLsb' 5 19 = 0#19 then
    if (w.extractLsb' 0 5).toNat ≤ 17 then .ok (.rdc (w.extractLsb' 0 5)) else .error .badIndex
  else .error .reservedField

/-- R87: the command a word is, or why it is none (R88). The opcode map is R84's. -/
def decode (w : Word) : Except Illegal Instr :=
  match w.opcode.toNat with
  | 0x00 => decodeZ w .nop
  | 0x01 => decodeWrb w
  | 0x02 => decodeRdb w
  | 0x03 => decodeZ w .caldec
  | 0x04 => decodeZ w .rawdec
  | 0x05 => decodeSetadc w
  | 0x06 => decodeZ w .compt
  | 0x07 => decodeZ w .compp
  | 0x08 => decodeZ w .comph
  | 0x09 => decodeRdr w
  | 0x0A => decodeRdc w
  | 0x0F => decodeZ w .srst
  | _ => .error .unassignedOpcode

/-- The word of a command, field by field from the formats of R81 and the opcodes of R84. -/
def encode : Instr → Word
  | .nop => 0x00#8 ++ 0#24
  | .wrb addr data => 0x01#8 ++ 0#8 ++ addr ++ data
  | .rdb addr => 0x02#8 ++ 0#8 ++ addr ++ 0#8
  | .caldec => 0x03#8 ++ 0#24
  | .rawdec => 0x04#8 ++ 0#24
  | .setadcT imm => 0x05#8 ++ 0#4 ++ imm
  | .setadcP imm => 0x05#8 ++ 1#4 ++ imm
  | .setadcH imm => 0x05#8 ++ 2#4 ++ 0#4 ++ imm
  | .compt => 0x06#8 ++ 0#24
  | .compp => 0x07#8 ++ 0#24
  | .comph => 0x08#8 ++ 0#24
  | .rdr sel => 0x09#8 ++ 0#1 ++ sel.code ++ 0#20
  | .rdc k => 0x0A#8 ++ 0#19 ++ k
  | .srst => 0x0F#8 ++ 0#24

/-- The word whose low `nbits` bits are those of `w`, all others zero. -/
def tableWord (nbits w : Nat) : Word := BitVec.ofNat 32 (w % 2 ^ nbits)

/-- What the decoder reads from a word numbered as spec/opcode_table.json numbers it (one 32-bit word, R80). -/
def decodeTableWord (nbits w : Nat) : Option Instr :=
  match decode (tableWord nbits w) with
  | .ok i => some i
  | .error _ => none

/-- One row of R84's table: a word `w` is the command only if `w &&& mask = pattern`. -/
structure OpcodeRow where
  mnemonic : String
  pattern : Word
  mask : Word
  deriving DecidableEq, Repr

/-- R84, row by row, with the mnemonics as spec/opcode_table.json spells them. -/
def opcodeRows : List OpcodeRow :=
  [ ⟨"NOP", 0x00000000#32, 0xFFFFFFFF#32⟩,
    ⟨"WRB", 0x01000000#32, 0xFFFF0000#32⟩,
    ⟨"RDB", 0x02000000#32, 0xFFFF00FF#32⟩,
    ⟨"CALDEC", 0x03000000#32, 0xFFFFFFFF#32⟩,
    ⟨"RAWDEC", 0x04000000#32, 0xFFFFFFFF#32⟩,
    ⟨"SETADC_T", 0x05000000#32, 0xFFF00000#32⟩,
    ⟨"SETADC_P", 0x05100000#32, 0xFFF00000#32⟩,
    ⟨"SETADC_H", 0x05200000#32, 0xFFFF0000#32⟩,
    ⟨"COMPT", 0x06000000#32, 0xFFFFFFFF#32⟩,
    ⟨"COMPP", 0x07000000#32, 0xFFFFFFFF#32⟩,
    ⟨"COMPH", 0x08000000#32, 0xFFFFFFFF#32⟩,
    ⟨"RDR", 0x09000000#32, 0xFF8FFFFF#32⟩,
    ⟨"RDC", 0x0A000000#32, 0xFFFFFFE0#32⟩,
    ⟨"SRST", 0x0F000000#32, 0xFFFFFFFF#32⟩ ]

/-- The row of the table a command belongs to: its position in `opcodeRows`. -/
def Instr.mnemonic : Instr → String
  | .nop => "NOP"
  | .wrb _ _ => "WRB"
  | .rdb _ => "RDB"
  | .caldec => "CALDEC"
  | .rawdec => "RAWDEC"
  | .setadcT _ => "SETADC_T"
  | .setadcP _ => "SETADC_P"
  | .setadcH _ => "SETADC_H"
  | .compt => "COMPT"
  | .compp => "COMPP"
  | .comph => "COMPH"
  | .rdr _ => "RDR"
  | .rdc _ => "RDC"
  | .srst => "SRST"

/-- Whether the word matches a row of R84, extra condition included. -/
def OpcodeRow.isMatch (r : OpcodeRow) (w : Word) : Bool :=
  w &&& r.mask = r.pattern && (r.mnemonic != "RDC" || (w.extractLsb' 0 5).toNat ≤ 17)

end Sys2Proof
end

