-- ==== Sys2Proof/Config.lean ====
section
/-!
DEFINITION. The named parameters of the block (00_scope R8) and of the host (50_host_environment R191) with their
defaults, and the one free value of the model. The parameters are arguments in the spec; the model carries them in a
field of State that no step changes, so that a statement over all states ranges over all of them (assumption 5).
-/

namespace Sys2Proof.Config

/-- `FLOAT_FMT` of R191: the host's floating-point format. The spec leaves it open (D23) with binary32 as the default;
the model offers the two IEEE 754 formats of C (assumption 16). -/
inductive FloatFmt where
  | binary32
  | binary64
  deriving DecidableEq, Repr

/-- The parameters, each with the default the spec gives it. -/
structure Params where
  /-- `XLSB_MASK` (R8, D7): the mask on the high nibble of a raw field's third byte. -/
  xlsbMask : BitVec 4 := 0x4#4
  /-- `H45_SIGN_EXTEND` (R8, D6): whether `dig_H4` and `dig_H5` are sign-extended from bit 11. -/
  h45SignExtend : Bool := true
  /-- `CHIP_ID` (R191). -/
  chipId : Byte := 0x60#8
  /-- `ADDR_ID` (R191): the sensor's identification register. -/
  addrId : Byte := 0xD0#8
  /-- `ADDR_CALTP` (R191): base of the 24 temperature and pressure trim bytes. -/
  addrCalTp : Byte := 0x88#8
  /-- `ADDR_CALH1` (R191): the first humidity trim byte. -/
  addrCalH1 : Byte := 0xA1#8
  /-- `ADDR_CALH2` (R191): base of the seven other humidity trim bytes. -/
  addrCalH2 : Byte := 0xE1#8
  /-- `ADDR_STATUS` (R191): the sensor's status register. -/
  addrStatus : Byte := 0xF3#8
  /-- `MEASURING_BIT` (R191, D29). -/
  measuringBit : Nat := 0
  /-- `ADDR_CTRL` (R191): the sensor's control register. -/
  addrCtrl : Byte := 0xF4#8
  /-- `CTRL_BYTE` (R191): the byte `init` writes to it. -/
  ctrlByte : Byte := 0x37#8
  /-- `ADDR_DATA` (R191): base of the 8-byte burst. -/
  addrData : Byte := 0xF7#8
  /-- `BUF_SIZE` (R191): the bound of `write` (R194). -/
  bufSize : Nat := 128
  /-- `MAX_FRAME` (R191): the bound of `read` (R193). -/
  maxFrame : Nat := 127
  /-- `RETRIES` (R191): further burst attempts after the first (R211). -/
  retries : Nat := 3
  /-- `RETRY_DELAY` (R191): time units waited between two attempts. -/
  retryDelay : Nat := 1
  /-- `POLL_MAX` (R191, D25): the bound of the status poll; none is the source's unbounded loop. -/
  pollMax : Option Nat := none
  /-- `FLOAT_FMT` (R191, D23). -/
  floatFmt : FloatFmt := .binary32
  deriving DecidableEq, Repr

/-- The defaults of R8 and R191. -/
def defaults : Params := {}

/-- FREE VALUE (assumption 12): how many bytes `write` counts as written when the transport moved only `moved` of the
`2 * count` bytes of its frame. R194 says that a count is returned and gives no formula; the model cuts it below `count`
(93 U7). -/
opaque shortWriteCount (moved count : Nat) : Nat

end Sys2Proof.Config
end

