-- ==== Sys2Proof/Machine/State.lean ====
section
/-!
DEFINITION. The state: the block `CE` exactly as 10_state R20 lists it, its ports, the parameters, and the host agent
around it (50_host_environment). Plain data throughout.
-/

namespace Sys2Proof.Machine

open Sys2Proof.Config

/-- The image buffer `IB` with its valid bits `IBV` (R21, R22): the bytes whose valid bit is 1, by address, in rising
order. An address that is not listed has `IBV = 0` and holds no value (assumption 4). -/
abbrev Memory := List Host.Cell

/-- The canonical form: addresses strictly rising, all of them below 40 (R60). -/
abbrev Memory.wf (m : Memory) : Prop :=
  m.Pairwise (fun x y => x.1 < y.1) ∧ ∀ c ∈ m, c.1 < 40

/-- The calibration store `C[0..17]` (R23, R24): eighteen coefficients, each in the width of its type. `dig_H4` and
`dig_H5` are 16-bit containers of a 12-bit value. -/
structure Calib where
  digT1 : BitVec 16
  digT2 : BitVec 16
  digT3 : BitVec 16
  digP1 : BitVec 16
  digP2 : BitVec 16
  digP3 : BitVec 16
  digP4 : BitVec 16
  digP5 : BitVec 16
  digP6 : BitVec 16
  digP7 : BitVec 16
  digP8 : BitVec 16
  digP9 : BitVec 16
  digH1 : BitVec 8
  digH2 : BitVec 16
  digH3 : BitVec 8
  digH4 : BitVec 16
  digH5 : BitVec 16
  digH6 : BitVec 8
  deriving DecidableEq, Repr

/-- `STATUS` by its fields (R31). No command writes the register whole; the word `RDR STATUS` reads is
`Status.toWord` (Flags.lean), whose bits 31:16 are zero. -/
structure Status where
  /-- Bit 0: the calibration store holds a complete decoded set. -/
  calv : Bool
  /-- Bit 1: `ADC_T` holds a value. -/
  avt : Bool
  /-- Bit 2: `ADC_P` holds a value. -/
  avp : Bool
  /-- Bit 3: `ADC_H` holds a value. -/
  avh : Bool
  /-- Bit 4: `T_FINE` and `T_OUT` hold the values of the current sample cycle. -/
  tfv : Bool
  /-- Bit 5: `P_OUT` holds the value of the current sample cycle. -/
  pv : Bool
  /-- Bit 6: `H_OUT` holds the value of the current sample cycle. -/
  hv : Bool
  /-- Bit 7, sticky: some compensation step since reset wrapped (R34). -/
  ovf : Bool
  /-- Bits 15:8, sticky: the code of the first fault since reset, 0 if none (R35). -/
  flt : BitVec 8
  deriving DecidableEq, Repr

/-- The block `CE`: the complete state of R20. -/
structure Block where
  image : Memory
  cal : Calib
  adcT : Word
  adcP : Word
  adcH : Word
  tFine : Word
  tOut : Word
  pOut : Word
  hOut : Word
  status : Status
  deriving DecidableEq, Repr

/-- The response of a command (R36, R91). -/
structure Response where
  rcode : BitVec 8
  rval : Word
  deriving DecidableEq, Repr

/-- The two legal chip-select lines (R192; 91 N12 leaves them abstract). -/
inductive Line where
  | line0
  | line1
  deriving DecidableEq, Repr

/-- The host's error kinds (R220). -/
inductive HostError where
  | notInitialized
  | invalidArgument
  | invalidLength
  | deviceNotFound
  | calibrationReadError
  | configWriteError
  | ioError
  | acquisitionExhausted
  /-- The timeout that D0 does not name, only with a finite `POLL_MAX` (R210, R220). -/
  | pollTimeout
  /-- The model's own (assumption 11): the `CALDEC` of `init` did not answer `OK`, or a compensation command of
  `read_sensors` answered a fault or nothing. -/
  | blockFailed
  deriving DecidableEq, Repr

/-- What `read_sensors` returns (R215): the three fixed-point results, and the bit patterns of their floating-point
conversions in `FLOAT_FMT` (zero-extended to 64 bits for binary32). -/
structure Reading where
  tOut : Word
  pOut : Word
  hOut : Word
  temperatureC : BitVec 64
  pressurePa : BitVec 64
  humidityPct : BitVec 64
  deriving DecidableEq, Repr

/-- What a finished host call returns. -/
inductive CallResult where
  /-- `init` succeeded (R200), or a command or the reset was handed to the block. -/
  | done
  /-- `read`: the bytes obtained; their number is the count returned (R193). -/
  | bytes (data : List Byte)
  /-- `write`: the number of bytes successfully written (R194). -/
  | written (n : Nat)
  /-- `read_sensors` succeeded (R215). -/
  | reading (r : Reading)
  | failed (e : HostError)
  deriving DecidableEq, Repr

/-- What the application can ask the host to do: the calls of 50_host_environment, and what R222 lets the host do on
its own account. -/
inductive Call where
  /-- `init(line_selector)` (R200). -/
  | init (selector : Nat)
  /-- `read_sensors()` (R210). -/
  | readSensors
  /-- `read(register, count)` (R193). -/
  | read (register : Byte) (count : Nat)
  /-- `write(register, data, count)` with `count` the length of `data` (R194). -/
  | write (register : Byte) (data : List Byte)
  /-- Issue any 32-bit word (R222). -/
  | command (w : Word)
  /-- Assert the hardware reset (R222, R260). -/
  | assertReset
  deriving DecidableEq, Repr

/-- Where the host stands in `init` (R202 to R205) or `read_sensors` (R210 to R213); each position is the action that
comes next. -/
inductive Proc where
  | idle
  /-- R202: read the identification. -/
  | initId
  /-- R203: read the 24 trim bytes. -/
  | initCalTp
  /-- R204: read the first humidity byte. -/
  | initCalH1
  /-- R204: read the seven others; `h1` is the first. -/
  | initCalH2 (h1 : Byte)
  /-- R262, R205: `CALDEC` has been issued; see its `OK`, then write the control byte. -/
  | initCtrl
  /-- R210: poll the sensor's status; `polls` polls have been made. -/
  | poll (polls : Nat)
  /-- R211: read the burst; `failed` attempts have failed. -/
  | burst (failed : Nat)
  /-- R213: `COMPT` has been issued. -/
  | awaitT
  /-- R213: `COMPP` has been issued; `t` is the temperature. -/
  | awaitP (t : Word)
  /-- R213: `COMPH` has been issued; `t` and `p` are the results so far. -/
  | awaitH (t p : Word)
  deriving DecidableEq, Repr

/-- One transport call (R190): the line, the bytes at the start of the buffer sent that the spec states, and the
buffer's length. A `read` states only its header (assumption 9). -/
structure Transfer where
  line : Line
  sent : List Byte
  length : Nat
  deriving DecidableEq, Repr

/-- The host agent (50_host_environment): its own state, the calls the application still makes, and the transport's
two sides. -/
structure Driver where
  /-- The device handle (R192); none is "unselected". -/
  line : Option Line
  proc : Proc
  /-- The application's calls still to be made, in order. -/
  calls : List Call
  /-- What the last finished call returned. -/
  result : Option CallResult
  /-- What the transport will deliver, transfer by transfer: an input (R190, assumption 8). -/
  inbox : List (List Byte)
  /-- The transport calls made, latest first. -/
  bus : List Transfer
  /-- Time units of retry delay spent (R211). -/
  waited : Nat
  deriving DecidableEq, Repr

/-- The whole state. -/
structure State where
  /-- The parameters of R8 and R191; no step changes them. -/
  params : Params
  /-- The block `CE` (R20). -/
  ce : Block
  /-- The host's command list from its position on: the words to be presented to the block (R40). -/
  cmds : List Word
  /-- The host's position in its command list (R40). -/
  pos : Nat
  /-- The last response (R36); none before the first and after a hardware reset. -/
  resp : Option Response
  /-- The hardware reset input (R260). -/
  resetIn : Bool
  /-- The host agent. -/
  drv : Driver
  deriving DecidableEq, Repr

/-- Reasons for which the machine could stop with a fault: NONE. The seven faults of 60_exceptions R230 are effects of a
command that completes with a response (R233), so every one of them is a next state; safe. -/
inductive Fault where
  deriving DecidableEq, Repr

/-- Reasons for which an instruction could have no meaning. -/
inductive Refusal where
  /-- Raised by an arm of `exec` whose instruction has no meaning yet; no arm of this model raises it; safe. -/
  | notModelled (mnemonic : String)
  deriving DecidableEq, Repr

/-- The coefficients at reset: the spec gives them no value (R38); DESIGN CHOICE, zero, unsafe (assumption 3). -/
def Calib.reset : Calib :=
  ⟨0, 0, 0, 0, 0, 0, 0, 0, 0, 0, 0, 0, 0, 0, 0, 0, 0, 0⟩

/-- `STATUS` at reset: zero (R38). -/
def Status.reset : Status :=
  ⟨false, false, false, false, false, false, false, false, 0#8⟩

/-- The block at reset (R38, R260): `STATUS` zero and every `IBV` zero. The data registers have no value in the spec;
DESIGN CHOICE, zero, unsafe (assumption 3). -/
def Block.reset : Block :=
  { image := [], cal := Calib.reset, adcT := 0#32, adcP := 0#32, adcH := 0#32, tFine := 0#32, tOut := 0#32,
    pOut := 0#32, hOut := 0#32, status := Status.reset }

/-- The host before its first call: no line selected (R192), nothing asked, nothing delivered. -/
def Driver.reset : Driver :=
  { line := none, proc := .idle, calls := [], result := none, inbox := [], bus := [], waited := 0 }

/-- The machine right after reset, no command presented, the parameters at their defaults. -/
def State.reset : State :=
  { params := Config.defaults, ce := Block.reset, cmds := [], pos := 0, resp := none, resetIn := false,
    drv := Driver.reset }

end Sys2Proof.Machine
end

