-- ==== Sys2Proof/Machine/Flags.lean ====
section
/-!
DEFINITION. The integer arithmetic laws and the overflow flag (42_compensation R140 to R145), and every change of
`STATUS` (10_state R31 to R35).
-/

namespace Sys2Proof.Machine

/-- R141, R10: the unique `r` with `-2^(n-1) <= r < 2^(n-1)` and `r = e (mod 2^n)`. -/
def wrap (n : Nat) (e : Int) : Int :=
  if e % 2 ^ n < 2 ^ (n - 1) then e % 2 ^ n else e % 2 ^ n - 2 ^ n

/-- R141: the step with exact value `e` overflowed. -/
def wraps (n : Nat) (e : Int) : Bool := wrap n e != e

/-- R141, R148: the local `ovf` of a command whose steps have these exact values, an OR over the steps. -/
def anyWraps (n : Nat) (es : List Int) : Bool := es.any (wraps n)

/-- R142: the arithmetic right shift, `floor(v / 2^k)`. -/
def asr (v : Int) (k : Nat) : Int := v / 2 ^ k

/-- R143: the exact value of a left shift; the step is `wrap n` of it. -/
def shlExact (v : Int) (k : Nat) : Int := v * 2 ^ k

/-- R145: signed division rounding toward zero, `d` not 0. -/
def tdiv (n d : Int) : Int :=
  if (n < 0) = (d < 0) then (n.natAbs / d.natAbs : Nat) else -((n.natAbs / d.natAbs : Nat) : Int)

/-- The word `RDR STATUS` reads (R31): bits 31:16 zero, `FLT`, then the eight flags. -/
def Status.toWord (s : Status) : Word :=
  0#16 ++ s.flt ++ BitVec.ofBool s.ovf ++ BitVec.ofBool s.hv ++ BitVec.ofBool s.pv ++ BitVec.ofBool s.tfv ++
    BitVec.ofBool s.avh ++ BitVec.ofBool s.avp ++ BitVec.ofBool s.avt ++ BitVec.ofBool s.calv

/-- R33: a new sample cycle clears `TFV`, `PV` and `HV`. -/
def Status.newCycle (s : Status) : Status :=
  { s with tfv := false, pv := false, hv := false }

/-- R35, R233: `FLT` takes a fault's code when it was 0. -/
def Status.recordFault (s : Status) (code : BitVec 8) : Status :=
  { s with flt := if s.flt = 0#8 then code else s.flt }

/-- R34, R147: `OVF` is set when the command's local `ovf` is 1, else left as it was. -/
def Status.recordOvf (s : Status) (ovf : Bool) : Status :=
  { s with ovf := s.ovf || ovf }

end Sys2Proof.Machine
end

