-- ==== Sys2Proof/Machine/Operands.lean ====
section
/-!
DEFINITION. Operand forms: how image bytes become coefficients and raw codes (20_memory R65, R66; 41_decoders R121 to
R126), how a coefficient or a register is widened (10_state R24, 42_compensation R146, 43_readout R180, R182).
-/

namespace Sys2Proof.Machine

open Sys2Proof.Config

/-- R65: a 16-bit trim word, least significant byte first; `lo` is the byte at the lower address. -/
def trimWord (lo hi : Byte) : BitVec 16 := hi ++ lo

/-- R123: `h12`, the 12-bit value sign-extended from bit 11, or zero-extended. -/
def h12 (signExtend : Bool) (v : BitVec 12) : BitVec 16 :=
  if signExtend then v.signExtend 16 else v.setWidth 16

/-- R122, R123: `v4`, the bits 11:4 in `h3` and the bits 3:0 in the low nibble of `h4`. -/
def h4Bits (h3 h4 : Byte) : BitVec 12 := h3 ++ h4.extractLsb' 0 4

/-- R122, R123: `v5`, the bits 11:4 in `h5` and the bits 3:0 in the high nibble of `h4`. -/
def h5Bits (h4 h5 : Byte) : BitVec 12 := h5 ++ h4.extractLsb' 4 4

/-- R120 to R123: the eighteen coefficients from the image bytes `b 0` to `b 31`. -/
def decodeCalib (signExtend : Bool) (b : Nat → Byte) : Calib where
  digT1 := trimWord (b 0) (b 1)
  digT2 := trimWord (b 2) (b 3)
  digT3 := trimWord (b 4) (b 5)
  digP1 := trimWord (b 6) (b 7)
  digP2 := trimWord (b 8) (b 9)
  digP3 := trimWord (b 10) (b 11)
  digP4 := trimWord (b 12) (b 13)
  digP5 := trimWord (b 14) (b 15)
  digP6 := trimWord (b 16) (b 17)
  digP7 := trimWord (b 18) (b 19)
  digP8 := trimWord (b 20) (b 21)
  digP9 := trimWord (b 22) (b 23)
  digH1 := b 24
  digH2 := trimWord (b 25) (b 26)
  digH3 := b 27
  digH4 := h12 signExtend (h4Bits (b 28) (b 29))
  digH5 := h12 signExtend (h5Bits (b 29) (b 30))
  digH6 := b 31

/-- R125, R126: a 20-bit raw code, most significant byte first, the third byte's high nibble under the mask. -/
def rawCode20 (mask : BitVec 4) (b0 b1 b2 : Byte) : Word :=
  BitVec.ofNat 32 (b0.toNat <<< 12 + b1.toNat <<< 4 + ((b2.toNat >>> 4) &&& mask.toNat))

/-- R125, R66: the 16-bit humidity code, most significant byte first. -/
def rawCode16 (b0 b1 : Byte) : Word := BitVec.ofNat 32 (b0.toNat <<< 8 + b1.toNat)

/-- R182: `C[k]` widened to 32 bits, zero-extended for the unsigned coefficients (`k` = 0, 3, 12, 14) and
sign-extended for the others; none for `k >= 18`. -/
def Calib.read (c : Calib) (k : Nat) : Option Word :=
  match k with
  | 0 => some (c.digT1.setWidth 32)
  | 1 => some (c.digT2.signExtend 32)
  | 2 => some (c.digT3.signExtend 32)
  | 3 => some (c.digP1.setWidth 32)
  | 4 => some (c.digP2.signExtend 32)
  | 5 => some (c.digP3.signExtend 32)
  | 6 => some (c.digP4.signExtend 32)
  | 7 => some (c.digP5.signExtend 32)
  | 8 => some (c.digP6.signExtend 32)
  | 9 => some (c.digP7.signExtend 32)
  | 10 => some (c.digP8.signExtend 32)
  | 11 => some (c.digP9.signExtend 32)
  | 12 => some (c.digH1.setWidth 32)
  | 13 => some (c.digH2.signExtend 32)
  | 14 => some (c.digH3.setWidth 32)
  | 15 => some (c.digH4.signExtend 32)
  | 16 => some (c.digH5.signExtend 32)
  | 17 => some (c.digH6.signExtend 32)
  | _ => none

/-- The selected register's value (R180), whatever its valid bit says. -/
def Block.selected (b : Block) : RdrSel → Word
  | .tOut => b.tOut
  | .pOut => b.pOut
  | .hOut => b.hOut
  | .tFine => b.tFine
  | .status => b.status.toWord
  | .adcT => b.adcT
  | .adcP => b.adcP
  | .adcH => b.adcH

end Sys2Proof.Machine
end

