-- ==== Sys2Proof/Machine/Ops.lean ====
section
/-!
DEFINITION. The named operations: the image buffer (20_memory R60 to R63), completing a command and raising a fault
(60_exceptions R230, R233), the reset (70_reset R260), taking the next command from the port.
-/

namespace Sys2Proof.Machine

/-- The byte an address holds, none where `IBV = 0` (R21, R22). -/
def Memory.read : Memory → Nat → Option Byte
  | [], _ => none
  | (k, v) :: rest, a => if k = a then some v else Memory.read rest a

/-- `IB[a] <- v; IBV[a] <- 1` (R63), in the canonical order. -/
def Memory.write : Memory → Nat → Byte → Memory
  | [], a, v => [(a, v)]
  | (k, u) :: rest, a, v =>
    if a < k then (a, v) :: (k, u) :: rest
    else if a = k then (a, v) :: rest
    else (k, u) :: Memory.write rest a v

/-- `IBV[lo .. hi-1] <- 0` (R22): a decoder consumes its region. -/
def Memory.consume (m : Memory) (lo hi : Nat) : Memory :=
  m.filter (fun c => decide (c.1 < lo) || decide (hi ≤ c.1))

/-- `IBV[a]` (R22). -/
def Memory.ibv (m : Memory) (a : Nat) : Bool := (m.read a).isSome

/-- Every byte of `lo .. lo+n-1` is valid (R62, last sentence). -/
def Memory.allValid (m : Memory) (lo n : Nat) : Bool := (List.range n).all fun i => m.ibv (lo + i)

/-- The byte of a valid address. The decoders use it only where `allValid` holds, so the value it has elsewhere is
never seen. -/
def Memory.byte (m : Memory) (a : Nat) : Byte := (m.read a).getD 0#8

/-- The seven block faults (R230). -/
inductive CeFault where
  | illegalCommand
  | addressFault
  | imageNotValid
  | calNotValid
  | operandNotValid
  | orderViolation
  | resultNotValid
  deriving DecidableEq, Repr

/-- `code(F)` (R230). -/
def CeFault.code : CeFault → BitVec 8
  | .illegalCommand => 0x10#8
  | .addressFault => 0x11#8
  | .imageNotValid => 0x12#8
  | .calNotValid => 0x13#8
  | .operandNotValid => 0x14#8
  | .orderViolation => 0x15#8
  | .resultNotValid => 0x16#8

/-- `OK` (R230). -/
def okCode : BitVec 8 := 0x00#8

/-- `OKOVF` (R230, R239). -/
def okOvfCode : BitVec 8 := 0x01#8

/-- `respond(code, val)` (R10, R36). -/
def State.respond (s : State) (code : BitVec 8) (val : Word) : State :=
  { s with resp := some ⟨code, val⟩ }

/-- `raise F` (R233), the one way a fault is taken: `FLT` takes the code if it was 0, the response is `(code(F), 0)`,
nothing else changes. There is no handler, no saved state, and no return (R241). -/
def State.raise (s : State) (f : CeFault) : State :=
  { s with ce := { s.ce with status := s.ce.status.recordFault f.code } }.respond f.code 0#32

/-- A command that completes with `OK` and the value `val`, the block becoming `b`. -/
def State.complete (s : State) (b : Block) (val : Word) : State :=
  { s with ce := b }.respond okCode val

/-- A compensation command that completes (R147): `OKOVF` and `OVF <- 1` when its local `ovf` is 1, else `OK`. -/
def State.completeComp (s : State) (b : Block) (ovf : Bool) (val : Word) : State :=
  { s with ce := { b with status := b.status.recordOvf ovf } }.respond (if ovf then okOvfCode else okCode) val

/-- `MemRead(a, 1)` (R62): the fault it raises, or the byte. -/
def Block.memRead (b : Block) (a : Byte) : Except CeFault Byte :=
  if 40 ≤ a.toNat then .error .addressFault
  else match b.image.read a.toNat with
    | none => .error .imageNotValid
    | some v => .ok v

/-- `MemWrite(a, 1, v)` (R63): the fault it raises, or the block with the byte written. -/
def Block.memWrite (b : Block) (a v : Byte) : Except CeFault Block :=
  if 40 ≤ a.toNat then .error .addressFault
  else .ok { b with image := b.image.write a.toNat v }

/-- The hardware reset (R260), taken at a command boundary: the block is in the reset state, no response is given, and a
command that waited at the port has no effect at all and is gone (assumption 7). -/
def State.hardReset (s : State) : State :=
  { s with ce := Block.reset, cmds := s.cmds.tail, resp := none, resetIn := false }

/-- The host presents its next command and advances its position by one, whatever the response (R40). -/
def State.takeCommand (s : State) (rest : List Word) : State :=
  { s with cmds := rest, pos := s.pos + 1 }

/-- The state in which the word `w` is the next to be presented: in place of the one that was, if any; the reset input,
which would be taken first, is not asserted. -/
def State.present (s : State) (w : Word) : State :=
  { s with cmds := w :: s.cmds.tail, resetIn := false }

end Sys2Proof.Machine
end

