-- ==== Sys2Proof/Machine/Buffer.lean ====
section
/-!
DEFINITION. The buffer and control commands `NOP`, `WRB`, `RDB`, `SRST` (40_buffer_and_control R100 to R104).
-/

namespace Sys2Proof.Machine

/-- `NOP` (R100): answers `(OK, 0)` and touches nothing. -/
def execNop (s : State) : Host.Outcome State Fault Refusal :=
  .next (s.complete s.ce 0#32)

/-- `WRB addr, data` (R101). -/
def execWrb (addr data : Byte) (s : State) : Host.Outcome State Fault Refusal :=
  match s.ce.memWrite addr data with
  | .error f => .next (s.raise f)
  | .ok b => .next (s.complete b 0#32)

/-- `RDB addr` (R102): the byte, zero-extended. -/
def execRdb (addr : Byte) (s : State) : Host.Outcome State Fault Refusal :=
  match s.ce.memRead addr with
  | .error f => .next (s.raise f)
  | .ok v => .next (s.complete s.ce (v.setWidth 32))

/-- `SRST` (R103): the block is in the reset state, `(OK, 0)` is answered. -/
def execSrst (s : State) : Host.Outcome State Fault Refusal :=
  .next (s.complete Block.reset 0#32)

end Sys2Proof.Machine
end

