-- ==== Sys2Proof/Machine/Compensation.lean ====
section
/-!
DEFINITION. The compensation commands `COMPT`, `COMPP`, `COMPH` (42_compensation R140 to R161). Each step of the spec's
pseudocode is one line here under the spec's own name; `e_<name>` is the exact value of a step and `<name>` what the
datapath holds of it. The step lists are the spec's own general knowledge (its G1; assumption 14).
-/

namespace Sys2Proof.Machine

/-- What `COMPT` computes. -/
structure TempResult where
  tFine : Int
  t : Int
  ovf : Bool
  deriving DecidableEq, Repr

/-- R150: the fifteen steps of the temperature, 32-bit. -/
def tempSteps (adcT t1 t2 t3 : Int) : TempResult :=
  let a1 := asr adcT 3
  let e_b1 := t1 * 2
  let b1 := wrap 32 e_b1
  let e_c1 := a1 - b1
  let c1 := wrap 32 e_c1
  let e_m1 := c1 * t2
  let m1 := wrap 32 e_m1
  let var1 := asr m1 11
  let a2 := asr adcT 4
  let e_c2 := a2 - t1
  let c2 := wrap 32 e_c2
  let e_m2 := c2 * c2
  let m2 := wrap 32 e_m2
  let s2 := asr m2 12
  let e_m3 := s2 * t3
  let m3 := wrap 32 e_m3
  let var2 := asr m3 14
  let e_tf := var1 + var2
  let tf := wrap 32 e_tf
  let e_u1 := tf * 5
  let u1 := wrap 32 e_u1
  let e_u2 := u1 + 128
  let u2 := wrap 32 e_u2
  { tFine := tf, t := asr u2 8, ovf := anyWraps 32 [e_b1, e_c1, e_m1, e_c2, e_m2, e_m3, e_tf, e_u1, e_u2] }

/-- What `COMPP` computes before its division: `v2`, the denominator, and whether a step wrapped so far. -/
structure PressFront where
  v2 : Int
  den : Int
  ovf : Bool
  deriving DecidableEq, Repr

/-- R155, the steps up to `den`, 64-bit. -/
def pressFront (tf p1 p2 p3 p4 p5 p6 : Int) : PressFront :=
  let e_v1 := tf - 128000
  let v1 := wrap 64 e_v1
  let e_q1 := v1 * v1
  let q1 := wrap 64 e_q1
  let e_v2a := q1 * p6
  let v2a := wrap 64 e_v2a
  let e_q2 := v1 * p5
  let q2 := wrap 64 e_q2
  let e_q3 := shlExact q2 17
  let q3 := wrap 64 e_q3
  let e_v2b := v2a + q3
  let v2b := wrap 64 e_v2b
  let e_q4 := shlExact p4 35
  let q4 := wrap 64 e_q4
  let e_v2 := v2b + q4
  let v2 := wrap 64 e_v2
  let e_q5 := q1 * p3
  let q5 := wrap 64 e_q5
  let q6 := asr q5 8
  let e_q7 := v1 * p2
  let q7 := wrap 64 e_q7
  let e_q8 := shlExact q7 12
  let q8 := wrap 64 e_q8
  let e_v1b := q6 + q8
  let v1b := wrap 64 e_v1b
  let e_q9 := 2 ^ 47 + v1b
  let q9 := wrap 64 e_q9
  let e_q10 := q9 * p1
  let q10 := wrap 64 e_q10
  { v2 := v2, den := asr q10 33,
    ovf := anyWraps 64 [e_v1, e_q1, e_v2a, e_q2, e_q3, e_v2b, e_q4, e_v2, e_q5, e_q7, e_q8, e_v1b, e_q9, e_q10] }

/-- What `COMPP` or `COMPH` computes: the exact last value and whether a step wrapped. -/
structure CompResult where
  val : Int
  ovf : Bool
  deriving DecidableEq, Repr

/-- R155, the steps from `p0` on, for a denominator that is not zero; the value is `p5`. -/
def pressBack (adcP v2 den p7 p8 p9 : Int) : CompResult :=
  let e_p0 := 1048576 - adcP
  let p0 := wrap 64 e_p0
  let e_p1 := shlExact p0 31
  let p1 := wrap 64 e_p1
  let e_p2 := p1 - v2
  let p2 := wrap 64 e_p2
  let e_p3 := p2 * 3125
  let p3 := wrap 64 e_p3
  let e_p4 := tdiv p3 den
  let p4 := wrap 64 e_p4
  let s := asr p4 13
  let e_r1 := p9 * s
  let r1 := wrap 64 e_r1
  let e_r2 := r1 * s
  let r2 := wrap 64 e_r2
  let w1 := asr r2 25
  let e_r3 := p8 * p4
  let r3 := wrap 64 e_r3
  let w2 := asr r3 19
  let e_r4 := p4 + w1
  let r4 := wrap 64 e_r4
  let e_r5 := r4 + w2
  let r5 := wrap 64 e_r5
  let r6 := asr r5 8
  let e_r7 := shlExact p7 4
  let r7 := wrap 64 e_r7
  let e_p5 := r6 + r7
  let p5 := wrap 64 e_p5
  { val := p5, ovf := anyWraps 64 [e_p0, e_p1, e_p2, e_p3, e_p4, e_r1, e_r2, e_r3, e_r4, e_r5, e_r7, e_p5] }

/-- R155 to R157: the pressure. A zero denominator gives the sentinel 0 without a division; a final value outside `u32`
sets `ovf` (the register takes its low 32 bits). -/
def pressSteps (adcP tf p1 p2 p3 p4 p5 p6 p7 p8 p9 : Int) : CompResult :=
  let front := pressFront tf p1 p2 p3 p4 p5 p6
  if front.den = 0 then { val := 0, ovf := front.ovf }
  else
    let back := pressBack adcP front.v2 front.den p7 p8 p9
    { val := back.val, ovf := front.ovf || back.ovf || decide (back.val < 0) || decide (2 ^ 32 ≤ back.val) }

/-- R161: the clamp to 0..419430400 and the final shift by 12. -/
def humClamp (z : Int) : Int :=
  let z1 := if z < 0 then 0 else z
  let z2 := if z1 > 419430400 then 419430400 else z1
  asr z2 12

/-- R160: the humidity, 32-bit. -/
def humSteps (adcH tf h1 h2 h3 h4 h5 h6 : Int) : CompResult :=
  let e_x := tf - 76800
  let x := wrap 32 e_x
  let e_a := shlExact adcH 14
  let a := wrap 32 e_a
  let e_b := shlExact h4 20
  let b := wrap 32 e_b
  let e_c := h5 * x
  let c := wrap 32 e_c
  let e_d := a - b
  let d := wrap 32 e_d
  let e_e := d - c
  let e := wrap 32 e_e
  let e_f := e + 16384
  let f := wrap 32 e_f
  let l := asr f 15
  let e_g := x * h6
  let g := wrap 32 e_g
  let g1 := asr g 10
  let e_h := x * h3
  let h := wrap 32 e_h
  let hs := asr h 11
  let e_hb := hs + 32768
  let hb := wrap 32 e_hb
  let e_i := g1 * hb
  let i := wrap 32 e_i
  let i1 := asr i 10
  let e_i2 := i1 + 2097152
  let i2 := wrap 32 e_i2
  let e_j := i2 * h2
  let j := wrap 32 e_j
  let e_j1 := j + 8192
  let j1 := wrap 32 e_j1
  let r := asr j1 14
  let e_y := l * r
  let y := wrap 32 e_y
  let k := asr y 15
  let e_k2 := k * k
  let k2 := wrap 32 e_k2
  let k3 := asr k2 7
  let e_k4 := k3 * h1
  let k4 := wrap 32 e_k4
  let k5 := asr k4 4
  let e_z := y - k5
  let z := wrap 32 e_z
  { val := humClamp z,
    ovf := anyWraps 32 [e_x, e_a, e_b, e_c, e_d, e_e, e_f, e_g, e_h, e_hb, e_i, e_i2, e_j, e_j1, e_y, e_k2, e_k4, e_z] }

/-- R150 on the block's registers (R146: unsigned coefficients are non-negative, signed ones keep their sign). -/
def Block.temperature (b : Block) : TempResult :=
  tempSteps b.adcT.toInt b.cal.digT1.toNat b.cal.digT2.toInt b.cal.digT3.toInt

/-- R155 on the block's registers. -/
def Block.pressure (b : Block) : CompResult :=
  pressSteps b.adcP.toInt b.tFine.toInt b.cal.digP1.toNat b.cal.digP2.toInt b.cal.digP3.toInt b.cal.digP4.toInt
    b.cal.digP5.toInt b.cal.digP6.toInt b.cal.digP7.toInt b.cal.digP8.toInt b.cal.digP9.toInt

/-- R160 on the block's registers. -/
def Block.humidity (b : Block) : CompResult :=
  humSteps b.adcH.toInt b.tFine.toInt b.cal.digH1.toNat b.cal.digH2.toInt b.cal.digH3.toNat b.cal.digH4.toInt
    b.cal.digH5.toInt b.cal.digH6.toInt

/-- R149: the checks common to the three commands, in their order. `operandValid` is the raw code's valid bit,
`orderValid` is `TFV` for `COMPP` and `COMPH` and true for `COMPT`. -/
def Status.compCheck (st : Status) (operandValid orderValid : Bool) : Option CeFault :=
  if !st.calv then some .calNotValid
  else if !operandValid then some .operandNotValid
  else if !orderValid then some .orderViolation
  else none

/-- `COMPT` (R150): writes `T_FINE` and `T_OUT`, sets `TFV`, answers the temperature. -/
def execCompt (s : State) : Host.Outcome State Fault Refusal :=
  match s.ce.status.compCheck s.ce.status.avt true with
  | some f => .next (s.raise f)
  | none =>
    .next (s.completeComp
      { s.ce with
        tFine := BitVec.ofInt 32 s.ce.temperature.tFine
        tOut := BitVec.ofInt 32 s.ce.temperature.t
        status := { s.ce.status with tfv := true } }
      s.ce.temperature.ovf (BitVec.ofInt 32 s.ce.temperature.t))

/-- `COMPP` (R155 to R157): writes `P_OUT`, sets `PV`, answers the pressure. -/
def execCompp (s : State) : Host.Outcome State Fault Refusal :=
  match s.ce.status.compCheck s.ce.status.avp s.ce.status.tfv with
  | some f => .next (s.raise f)
  | none =>
    .next (s.completeComp
      { s.ce with
        pOut := BitVec.ofInt 32 s.ce.pressure.val
        status := { s.ce.status with pv := true } }
      s.ce.pressure.ovf (BitVec.ofInt 32 s.ce.pressure.val))

/-- `COMPH` (R160, R161): writes `H_OUT`, sets `HV`, answers the humidity. -/
def execComph (s : State) : Host.Outcome State Fault Refusal :=
  match s.ce.status.compCheck s.ce.status.avh s.ce.status.tfv with
  | some f => .next (s.raise f)
  | none =>
    .next (s.completeComp
      { s.ce with
        hOut := BitVec.ofInt 32 s.ce.humidity.val
        status := { s.ce.status with hv := true } }
      s.ce.humidity.ovf (BitVec.ofInt 32 s.ce.humidity.val))

end Sys2Proof.Machine
end

