-- ==== Sys2Proof/Machine/Decoders.lean ====
section
/-!
DEFINITION. The decoders `CALDEC`, `RAWDEC` and the direct loads `SETADC` (41_decoders R120 to R129).
-/

namespace Sys2Proof.Machine

/-- `CALDEC` (R120): the 32 trim bytes become the 18 coefficients and are consumed. -/
def execCaldec (s : State) : Host.Outcome State Fault Refusal :=
  if s.ce.image.allValid 0 32 then
    .next (s.complete
      { s.ce with
        cal := decodeCalib s.params.h45SignExtend s.ce.image.byte
        image := s.ce.image.consume 0 32
        status := { s.ce.status.newCycle with calv := true } } 0#32)
  else .next (s.raise .imageNotValid)

/-- `RAWDEC` (R125): the eight burst bytes become the three raw codes and are consumed. -/
def execRawdec (s : State) : Host.Outcome State Fault Refusal :=
  if s.ce.image.allValid 32 8 then
    .next (s.complete
      { s.ce with
        adcP := rawCode20 s.params.xlsbMask (s.ce.image.byte 32) (s.ce.image.byte 33) (s.ce.image.byte 34)
        adcT := rawCode20 s.params.xlsbMask (s.ce.image.byte 35) (s.ce.image.byte 36) (s.ce.image.byte 37)
        adcH := rawCode16 (s.ce.image.byte 38) (s.ce.image.byte 39)
        image := s.ce.image.consume 32 40
        status := { s.ce.status.newCycle with avt := true, avp := true, avh := true } } 0#32)
  else .next (s.raise .imageNotValid)

/-- `SETADC T, imm20` (R128, R83): zero-extended; a new sample cycle. -/
def execSetadcT (imm : BitVec 20) (s : State) : Host.Outcome State Fault Refusal :=
  .next (s.complete
    { s.ce with adcT := imm.setWidth 32, status := { s.ce.status.newCycle with avt := true } } 0#32)

/-- `SETADC P, imm20` (R128, R83). -/
def execSetadcP (imm : BitVec 20) (s : State) : Host.Outcome State Fault Refusal :=
  .next (s.complete
    { s.ce with adcP := imm.setWidth 32, status := { s.ce.status.newCycle with avp := true } } 0#32)

/-- `SETADC H, imm16` (R128, R83). -/
def execSetadcH (imm : BitVec 16) (s : State) : Host.Outcome State Fault Refusal :=
  .next (s.complete
    { s.ce with adcH := imm.setWidth 32, status := { s.ce.status.newCycle with avh := true } } 0#32)

end Sys2Proof.Machine
end

