-- ==== Sys2Proof/Machine/Readout.lean ====
section
/-!
DEFINITION. The read-out commands `RDR` and `RDC` (43_readout R180 to R183).
-/

namespace Sys2Proof.Machine

/-- R180: the fault that reading the selected register raises while it holds no value; `STATUS` always does. -/
def Status.rdrCheck (st : Status) : RdrSel → Option CeFault
  | .tOut => if st.tfv then none else some .resultNotValid
  | .pOut => if st.pv then none else some .resultNotValid
  | .hOut => if st.hv then none else some .resultNotValid
  | .tFine => if st.tfv then none else some .resultNotValid
  | .status => none
  | .adcT => if st.avt then none else some .operandNotValid
  | .adcP => if st.avp then none else some .operandNotValid
  | .adcH => if st.avh then none else some .operandNotValid

/-- `RDR sel` (R180). -/
def execRdr (sel : RdrSel) (s : State) : Host.Outcome State Fault Refusal :=
  match s.ce.status.rdrCheck sel with
  | some f => .next (s.raise f)
  | none => .next (s.complete s.ce (s.ce.selected sel))

/-- `RDC k` (R182). An index the decoder never delivers (`k >= 18`) is the illegal word it would come from (R88,
assumption 15), and decoding comes before the check of `CALV` (R240). -/
def execRdc (k : BitVec 5) (s : State) : Host.Outcome State Fault Refusal :=
  match s.ce.cal.read k.toNat with
  | none => .next (s.raise .illegalCommand)
  | some v => if s.ce.status.calv then .next (s.complete s.ce v) else .next (s.raise .calNotValid)

end Sys2Proof.Machine
end

