-- ==== Sys2Proof/Machine/Dispatch.lean ====
section
/-!
DEFINITION. One command executed (30_encoding R84): each constructor's meaning, nothing else.
-/

namespace Sys2Proof.Machine

def exec (i : Instr) (s : State) : Host.Outcome State Fault Refusal :=
  match i with
  | .nop => Sys2Proof.Machine.execNop s
  | .wrb addr data => Sys2Proof.Machine.execWrb addr data s
  | .rdb addr => Sys2Proof.Machine.execRdb addr s
  | .caldec => Sys2Proof.Machine.execCaldec s
  | .rawdec => Sys2Proof.Machine.execRawdec s
  | .setadcT imm => Sys2Proof.Machine.execSetadcT imm s
  | .setadcP imm => Sys2Proof.Machine.execSetadcP imm s
  | .setadcH imm => Sys2Proof.Machine.execSetadcH imm s
  | .compt => Sys2Proof.Machine.execCompt s
  | .compp => Sys2Proof.Machine.execCompp s
  | .comph => Sys2Proof.Machine.execComph s
  | .rdr sel => Sys2Proof.Machine.execRdr sel s
  | .rdc k => Sys2Proof.Machine.execRdc k s
  | .srst => Sys2Proof.Machine.execSrst s

end Sys2Proof.Machine
end

