-- ==== Sys2Proof/Machine/Assembly.lean ====
section
/-!
DEFINITION. Source syntax (30_encoding R92), written out from a command, and the pseudo-instructions (R93).
-/

namespace Sys2Proof.Machine

/-- The name of a register in `RDR name` (R92). -/
def RdrSel.source : RdrSel → String
  | .tOut => "T_OUT"
  | .pOut => "P_OUT"
  | .hOut => "H_OUT"
  | .tFine => "T_FINE"
  | .status => "STATUS"
  | .adcT => "ADC_T"
  | .adcP => "ADC_P"
  | .adcH => "ADC_H"

/-- A command in R92's syntax: mnemonic in capitals, operands separated by commas, numbers decimal, the coefficient by
its index. -/
def source : Instr → String
  | .nop => "NOP"
  | .wrb addr data => "WRB " ++ toString addr.toNat ++ ", " ++ toString data.toNat
  | .rdb addr => "RDB " ++ toString addr.toNat
  | .caldec => "CALDEC"
  | .rawdec => "RAWDEC"
  | .setadcT imm => "SETADC T, " ++ toString imm.toNat
  | .setadcP imm => "SETADC P, " ++ toString imm.toNat
  | .setadcH imm => "SETADC H, " ++ toString imm.toNat
  | .compt => "COMPT"
  | .compp => "COMPP"
  | .comph => "COMPH"
  | .rdr sel => "RDR " ++ RdrSel.source sel
  | .rdc k => "RDC " ++ toString k.toNat
  | .srst => "SRST"

/-- `WRB base, b0`, `WRB base + 1, b1`, ..., ascending address (R93, R203, R204, R211). -/
def writeImage (base : Byte) : List Byte → List Instr
  | [] => []
  | b :: rest => .wrb base b :: writeImage (base + 1#8) rest

/-- `LDCAL b0, ..., b31` (R93). -/
def ldcal (bytes : List Byte) : List Instr := writeImage 0#8 bytes ++ [.caldec]

/-- `LDBURST b0, ..., b7` (R93). -/
def ldburst (bytes : List Byte) : List Instr := writeImage 32#8 bytes ++ [.rawdec]

/-- `SAMPLE` (R93): the fixed order of R167. -/
def sample : List Instr := [.compt, .compp, .comph]

/-- `SETRAW t, p, h` (R93). -/
def setraw (t p : BitVec 20) (h : BitVec 16) : List Instr := [.setadcT t, .setadcP p, .setadcH h]

/-- The host appends commands to its command list. -/
def State.issue (s : State) (is : List Instr) : State :=
  { s with cmds := s.cmds ++ is.map encode }

end Sys2Proof.Machine
end

