-- ==== Sys2Proof/Machine/Boundary.lean ====
section
/-!
DEFINITION. The floating-point boundary of the host (50_host_environment R215, R216): conversion of an integer to
`FLOAT_FMT` and division in it, each rounded to nearest, ties to even. Values met here are finite and normal or zero
(R216), so a value is a sign, an integer significand and a power of two.
-/

namespace Sys2Proof.Machine

open Sys2Proof.Config

/-- Significand bits, the hidden one counted. -/
def FloatFmt.precision : FloatFmt → Nat
  | .binary32 => 24
  | .binary64 => 53

/-- Exponent bias. -/
def FloatFmt.bias : FloatFmt → Nat
  | .binary32 => 127
  | .binary64 => 1023

/-- Width of the encoding. -/
def FloatFmt.width : FloatFmt → Nat
  | .binary32 => 32
  | .binary64 => 64

/-- A finite floating-point number: `(-1)^neg * mant * 2^exp`. -/
structure HostFloat where
  neg : Bool
  mant : Nat
  exp : Int
  deriving DecidableEq, Repr

/-- `n / d` times `2^(-e)`, as a fraction of naturals. -/
def scaleFrac (n d : Nat) (e : Int) : Nat × Nat := (n * 2 ^ (-e).toNat, d * 2 ^ e.toNat)

/-- The natural nearest to `n / d`, ties to even (`d` not 0). -/
def roundEven (n d : Nat) : Nat :=
  if 2 * (n % d) < d then n / d
  else if 2 * (n % d) = d then n / d + (n / d) % 2
  else n / d + 1

/-- `n / d` rounded to a significand of `p` bits (`d` not 0): the significand and the exponent. -/
def roundFrac (p n d : Nat) : Nat × Int :=
  if n = 0 then (0, 0)
  else
    let e0 : Int := (n.log2 : Int) - d.log2 - (p - 1)
    let f0 := scaleFrac n d e0
    let e := if f0.1 < f0.2 * 2 ^ (p - 1) then e0 - 1 else e0
    let f := scaleFrac n d e
    (roundEven f.1 f.2, e)

/-- `cvt` (R215). -/
def cvt (fmt : FloatFmt) (x : Int) : HostFloat :=
  let r := roundFrac (FloatFmt.precision fmt) x.natAbs 1
  { neg := decide (x < 0), mant := r.1, exp := r.2 }

/-- `fdiv` (R215), for a divisor that is not zero. -/
def fdiv (fmt : FloatFmt) (a b : HostFloat) : HostFloat :=
  let f := scaleFrac a.mant b.mant (b.exp - a.exp)
  let r := roundFrac (FloatFmt.precision fmt) f.1 f.2
  { neg := a.neg != b.neg, mant := r.1, exp := r.2 }

/-- The encoding of a normal number or zero, zero-extended to 64 bits. -/
def HostFloat.pattern (fmt : FloatFmt) (f : HostFloat) : BitVec 64 :=
  let sign := if f.neg then 2 ^ (FloatFmt.width fmt - 1) else 0
  let p := FloatFmt.precision fmt
  if f.mant = 0 then BitVec.ofNat 64 sign
  else BitVec.ofNat 64
    (sign + (f.exp + (p - 1 : Nat) + FloatFmt.bias fmt).toNat * 2 ^ (p - 1) + f.mant - 2 ^ (p - 1))

/-- R215: `fdiv(cvt(x), cvt(divisor))`. -/
def toUnit (fmt : FloatFmt) (x : Int) (divisor : Nat) : HostFloat := fdiv fmt (cvt fmt x) (cvt fmt divisor)

/-- R215: the three results converted, `T_OUT` signed, `P_OUT` and `H_OUT` unsigned. -/
def reading (fmt : FloatFmt) (t p h : Word) : Reading where
  tOut := t
  pOut := p
  hOut := h
  temperatureC := (toUnit fmt t.toInt 100).pattern fmt
  pressurePa := (toUnit fmt p.toNat 256).pattern fmt
  humidityPct := (toUnit fmt h.toNat 1024).pattern fmt

end Sys2Proof.Machine
end

