-- ==== Sys2Proof/Machine/Driver.lean ====
section
/-!
DEFINITION. The host agent (50_host_environment R190 to R222): register access, `init`, `read_sensors`. It moves only
while no command waits at the block's port (R13, assumption 10). One step of it makes at most one transport call, and
waits (stays as it is) while the transport has delivered nothing.
-/

namespace Sys2Proof.Machine

open Sys2Proof.Config

/-- What a register operation comes to: it fails at once, it waits for the transport, or it finishes. -/
inductive Io (α : Type) where
  | fails (e : HostError)
  | waits
  | done (a : α) (s : State)

/-- `transfer` (R190): the bytes received, at most as many as the buffer is long. `sent` is the stated part of the
buffer, `length` its length. It waits while the transport has not delivered (assumption 8); a transport that fails
delivers no bytes (assumption 21). -/
def State.transfer (s : State) (line : Line) (sent : List Byte) (length : Nat) : Io (List Byte) :=
  match s.drv.inbox with
  | [] => .waits
  | rx :: rest =>
    .done (rx.take length)
      { s with drv := { s.drv with inbox := rest, bus := ⟨line, sent, length⟩ :: s.drv.bus } }

/-- `read(register, count)` (R193): the bytes after the echoed header. With `n` bytes moved there are `max(n - 1, 0)`. -/
def State.hostRead (s : State) (register : Byte) (count : Nat) : Io (List Byte) :=
  match s.drv.line with
  | none => .fails .notInitialized
  | some line =>
    if s.params.maxFrame < count then .fails .invalidLength
    else match s.transfer line [register ||| 0x80#8] (count + 1) with
      | .fails e => .fails e
      | .waits => .waits
      | .done rx s' => .done (rx.drop 1) s'

/-- The frame of `write` (R194 step 3): each byte as an address and data pair, the high bit cleared, the address
rising. -/
def writeFrame (register : Byte) : List Byte → List Byte
  | [] => []
  | b :: rest => (register &&& 0x7F#8) :: b :: writeFrame (register + 1#8) rest

/-- R194 step 4: the number of bytes successfully written when `moved` bytes of the frame of `count` pairs were moved.
All of them when the whole frame was moved, none when nothing was; between, R194 gives no formula: a free value below
`count`, because every short count is a failure to the host's checks (93 U7, assumption 12). A frame of one pair moved
in part has therefore written nothing. -/
def writtenCount (moved count : Nat) : Nat :=
  if 2 * count ≤ moved then count
  else if moved = 0 then 0
  else min (Config.shortWriteCount moved count) (count - 1)

/-- `write(register, data, count)` (R194): the number of bytes written. -/
def State.hostWrite (s : State) (register : Byte) (data : List Byte) : Io Nat :=
  match s.drv.line with
  | none => .fails .notInitialized
  | some line =>
    if s.params.bufSize < data.length then .fails .invalidLength
    else match s.transfer line (writeFrame register data) (2 * data.length) with
      | .fails e => .fails e
      | .waits => .waits
      | .done rx s' => .done (writtenCount rx.length data.length) s'

/-- The host goes on at another point of its procedure. -/
def State.goto (s : State) (p : Proc) : State := { s with drv := { s.drv with proc := p } }

/-- The current call ends with this result. -/
def State.endCall (s : State) (r : CallResult) : State :=
  { s with drv := { s.drv with proc := .idle, result := some r } }

/-- A failure of `init` after its first step: the host issues `SRST` (R200); the line stays selected (DEDUCED,
assumption 19). -/
def State.failInit (s : State) (e : HostError) : State := (s.issue [.srst]).endCall (.failed e)

/-- Step 2 of `init` (R202). -/
def State.stepInitId (s : State) : State :=
  match s.hostRead s.params.addrId 1 with
  | .fails e => s.failInit e
  | .waits => s
  | .done data s' => if data = [s.params.chipId] then s'.goto .initCalTp else s'.failInit .deviceNotFound

/-- Step 3 of `init` (R203). -/
def State.stepInitCalTp (s : State) : State :=
  match s.hostRead s.params.addrCalTp 24 with
  | .fails e => s.failInit e
  | .waits => s
  | .done data s' =>
    if data.length = 24 then (s'.issue (writeImage 0#8 data)).goto .initCalH1
    else s'.failInit .calibrationReadError

/-- Step 4 of `init`, the first humidity byte (R204). -/
def State.stepInitCalH1 (s : State) : State :=
  match s.hostRead s.params.addrCalH1 1 with
  | .fails e => s.failInit e
  | .waits => s
  | .done data s' =>
    match data with
    | [h1] => s'.goto (.initCalH2 h1)
    | _ => s'.failInit .calibrationReadError

/-- Step 4 of `init`, the seven others, and step 5 (R204): the eight bytes are stored and `CALDEC` is issued. -/
def State.stepInitCalH2 (s : State) (h1 : Byte) : State :=
  match s.hostRead s.params.addrCalH2 7 with
  | .fails e => s.failInit e
  | .waits => s
  | .done data s' =>
    if data.length = 7 then (s'.issue (.wrb 24#8 h1 :: writeImage 25#8 data ++ [.caldec])).goto .initCtrl
    else s'.failInit .calibrationReadError

/-- The last response is `OK` (R230): what the host must see of `CALDEC` (70_reset R262 step 4). -/
def State.sawOk (s : State) : Bool := s.resp.any (·.rcode == okCode)

/-- Step 6 of `init` (R205), once the `CALDEC` issued by step 5 has answered `OK` (R262). After the reads of R203 and
R204 it can answer nothing else; should a reset have come between, `init` fails (assumption 11). -/
def State.stepInitCtrl (s : State) : State :=
  if s.sawOk then
    match s.hostWrite s.params.addrCtrl [s.params.ctrlByte] with
    | .fails e => s.failInit e
    | .waits => s
    | .done n s' => if n < 1 then s'.failInit .configWriteError else s'.endCall .done
  else s.failInit .blockFailed

/-- Step 1 of `read_sensors` (R210): `polls` polls have been made and all found the measuring bit set. DEDUCED: a finite
`POLL_MAX` is tested before each poll (assumption 18). -/
def State.stepPoll (s : State) (polls : Nat) : State :=
  if s.params.pollMax.any (· ≤ polls) then s.endCall (.failed .pollTimeout)
  else match s.hostRead s.params.addrStatus 1 with
    | .fails e => s.endCall (.failed e)
    | .waits => s
    | .done data s' =>
      match data with
      | [status] =>
        if status.getLsbD s.params.measuringBit then s'.goto (.poll (polls + 1)) else s'.goto (.burst 0)
      | _ => s'.endCall (.failed .ioError)

/-- Steps 2 and 3 of `read_sensors`, and the first command of step 4 (R211 to R214): `failed` attempts were short. -/
def State.stepBurst (s : State) (failed : Nat) : State :=
  match s.hostRead s.params.addrData 8 with
  | .fails e => s.endCall (.failed e)
  | .waits => s
  | .done data s' =>
    if data.length = 8 then (s'.issue (ldburst data ++ [.compt])).goto .awaitT
    else if s.params.retries ≤ failed then s'.endCall (.failed .acquisitionExhausted)
    else { s' with drv := { s'.drv with waited := s'.drv.waited + s.params.retryDelay } }.goto (.burst (failed + 1))

/-- The value of the last response when it is a completion (`RCODE[7:4] = 0`, R91). -/
def State.completedValue (s : State) : Option Word :=
  match s.resp with
  | none => none
  | some r => if r.rcode.extractLsb' 4 4 = 0#4 then some r.rval else none

/-- Step 4 of `read_sensors` (R213): the next compensation command once the one before has answered, or the reading
(R215). After a good `init` no answer is a fault (R213); should one be, the call fails (assumption 11). -/
def State.stepAwait (s : State) (next : Word → State) : State :=
  match s.completedValue with
  | none => s.endCall (.failed .blockFailed)
  | some v => next v

/-- The application's next call begins (R192, R193, R194, R201, R210, R222). -/
def State.startCall (s : State) (c : Call) (rest : List Call) : State :=
  let s' := { s with drv := { s.drv with calls := rest } }
  match c with
  | .init selector =>
    if selector = 0 then { s' with drv := { s'.drv with line := some .line0 } }.goto .initId
    else if selector = 1 then { s' with drv := { s'.drv with line := some .line1 } }.goto .initId
    else s'.endCall (.failed .invalidArgument)
  | .readSensors => s'.goto (.poll 0)
  | .read register count =>
    match s'.hostRead register count with
    | .fails e => s'.endCall (.failed e)
    | .waits => s
    | .done data t => t.endCall (.bytes data)
  | .write register data =>
    match s'.hostWrite register data with
    | .fails e => s'.endCall (.failed e)
    | .waits => s
    | .done n t => t.endCall (.written n)
  | .command w => { s' with cmds := s'.cmds ++ [w] }.endCall .done
  | .assertReset => { s' with resetIn := true }.endCall .done

/-- One step of the host agent. Idle with no call to make, it leaves everything as it is. -/
def State.driverStep (s : State) : State :=
  match s.drv.proc with
  | .idle =>
    match s.drv.calls with
    | [] => s
    | c :: rest => s.startCall c rest
  | .initId => s.stepInitId
  | .initCalTp => s.stepInitCalTp
  | .initCalH1 => s.stepInitCalH1
  | .initCalH2 h1 => s.stepInitCalH2 h1
  | .initCtrl => s.stepInitCtrl
  | .poll polls => s.stepPoll polls
  | .burst failed => s.stepBurst failed
  | .awaitT => s.stepAwait fun t => (s.issue [.compp]).goto (.awaitP t)
  | .awaitP t => s.stepAwait fun p => (s.issue [.comph]).goto (.awaitH t p)
  | .awaitH t p => s.stepAwait fun h => s.endCall (.reading (reading s.params.floatFmt t p h))

end Sys2Proof.Machine
end

