-- ==== Sys2Proof/Machine/Fetch.lean ====
section
/-!
DEFINITION. From the command port to the command executed: one word decoded and run (30_encoding R87, R88), and which
agent moves next (00_scope R11, R13, 70_reset R260).
-/

namespace Sys2Proof.Machine

/-- One command word executed (R87): the command it decodes to, or `ILLEGAL_COMMAND` (R88, R231). -/
def execWord (w : Word) (s : State) : Host.Outcome State Fault Refusal :=
  match decode w with
  | .ok i => exec i s
  | .error _ => .next (s.raise .illegalCommand)

/-- One step: the hardware reset if it is asserted (R260); else the command that the host presents, as one atomic step
(R11, R40); else the host agent's own step. -/
def State.advance (s : State) : Host.Outcome State Fault Refusal :=
  if s.resetIn then .next s.hardReset
  else match s.cmds with
    | w :: rest => execWord w (s.takeCommand rest)
    | [] => .next s.driverStep

end Sys2Proof.Machine
end

