-- ==== Sys2Proof/Machine/Step.lean ====
section
/-!
DEFINITION. The step of the machine, and the state whose next step executes a given word.
-/

namespace Sys2Proof.Machine

/-- One step of the machine (Fetch.lean). -/
def step (s : State) : Host.Outcome State Fault Refusal := s.advance

/-- `s` with the word numbered as the opcode table numbers it presented at the block's port, so that the next step
executes it (R40, assumption 1). -/
def State.withFetchWord (s : State) (nbits w : Nat) : State := s.present (tableWord nbits w)

end Sys2Proof.Machine
end

