-- ==== Sys2Proof/Safety.lean ====
section
/-!
DEFINITION. The terms in which statements speak of runs and states: a good state (70_reset R278), the invariant that
every step keeps, the states no command can tell apart (10_state R37), and outcomes that are next states.
-/

namespace Sys2Proof.Safety

open Sys2Proof.Machine

/-- The state an outcome goes on with, none for a fault or a refusal. -/
def nextOf (o : Host.Outcome State Fault Refusal) : Option State :=
  match o with
  | .next t => some t
  | .fault _ => none
  | .refused _ => none

/-- The response codes that report a fault (R230). -/
def isFaultCode (c : BitVec 8) : Bool := decide (0x10 ≤ c.toNat) && decide (c.toNat ≤ 0x16)

/-- The response codes that are ever produced (R230). -/
def isResponseCode (c : BitVec 8) : Bool := c == okCode || c == okOvfCode || isFaultCode c

/-- A response that R91 and R230 allow: a known code, and the value 0 with every fault. -/
def responseLegal (r : Response) : Prop :=
  isResponseCode r.rcode = true ∧ (isFaultCode r.rcode = true → r.rval = 0#32)

/-- The range R24 gives `dig_H4` and `dig_H5`. -/
def twelveBit (signExtend : Bool) (v : BitVec 16) : Prop :=
  if signExtend then -2048 ≤ v.toInt ∧ v.toInt ≤ 2047 else v.toNat ≤ 4095

/-- The invariant of the block, for the parameters `p`. -/
structure BlockInv (p : Config.Params) (b : Block) : Prop where
  /-- The image buffer is in canonical form, inside its 40 addresses (R60). -/
  image : b.image.wf
  /-- R24: the 12-bit coefficients of a decoded set are in their range. -/
  h4 : b.status.calv = true → twelveBit p.h45SignExtend b.cal.digH4
  h5 : b.status.calv = true → twelveBit p.h45SignExtend b.cal.digH5
  /-- R26: raw codes are 20, 20 and 16 bits wide, never negative. -/
  adcT : b.status.avt = true → b.adcT.toNat ≤ 1048575
  adcP : b.status.avp = true → b.adcP.toNat ≤ 1048575
  adcH : b.status.avh = true → b.adcH.toNat ≤ 65535
  /-- R30, R166. -/
  hOut : b.status.hv = true → b.hOut.toNat ≤ 102400
  /-- R33, R149: a result is valid only with the calibration and the operands it was computed from. -/
  tfv : b.status.tfv = true → b.status.calv = true ∧ b.status.avt = true
  pv : b.status.pv = true → b.status.tfv = true ∧ b.status.avp = true
  hv : b.status.hv = true → b.status.tfv = true ∧ b.status.avh = true
  /-- R33: a valid result is the one that its command computes from the registers as they are now. -/
  temperature : b.status.tfv = true →
    b.tFine = BitVec.ofInt 32 b.temperature.tFine ∧ b.tOut = BitVec.ofInt 32 b.temperature.t
  pressure : b.status.pv = true → b.pOut = BitVec.ofInt 32 b.pressure.val
  humidity : b.status.hv = true → b.hOut = BitVec.ofInt 32 b.humidity.val
  /-- R34: `OVF = 0` says that no valid result was computed with a wrapped step. -/
  exactT : b.status.tfv = true → b.status.ovf = false → b.temperature.ovf = false
  exactP : b.status.pv = true → b.status.ovf = false → b.pressure.ovf = false
  exactH : b.status.hv = true → b.status.ovf = false → b.humidity.ovf = false
  /-- R35: `FLT` is 0 or a fault's code. -/
  flt : b.status.flt = 0#8 ∨ isFaultCode b.status.flt = true

/-- The invariant of the machine. -/
structure MachineInv (s : State) : Prop where
  block : BlockInv s.params s.ce
  /-- R91, R230: what stands at the response port is a legal response. -/
  resp : ∀ r, s.resp = some r → responseLegal r

/-- What a claim about a final state can read of the block: everything in 10_state R20 that has a valid bit, and
`STATUS`, which always holds a value. -/
inductive Register where
  /-- A raw code, a result, or `STATUS`. -/
  | selected (sel : RdrSel)
  /-- A coefficient `C[k]` of the calibration store (R23, R24). -/
  | coefficient (k : Fin 18)
  /-- A byte `IB[a]` of the image buffer (R21). -/
  | imageByte (a : Fin 40)
  deriving DecidableEq, Repr

/-- The register's valid bit is set: the bit of R31 for a selected register, `CALV` for a coefficient (R23), `IBV[a]`
for an image byte (R22). -/
def Register.isValid (b : Block) : Register → Bool
  | .selected .tOut => b.status.tfv
  | .selected .pOut => b.status.pv
  | .selected .hOut => b.status.hv
  | .selected .tFine => b.status.tfv
  | .selected .status => true
  | .selected .adcT => b.status.avt
  | .selected .adcP => b.status.avp
  | .selected .adcH => b.status.avh
  | .coefficient _ => b.status.calv
  | .imageByte a => b.image.ibv a

/-- The command that reads the register. -/
def Register.readCommand : Register → Instr
  | .selected sel => .rdr sel
  | .coefficient k => .rdc (BitVec.ofNat 5 k)
  | .imageByte a => .rdb (BitVec.ofNat 8 a)

/-- The call can still add commands to the host's command list. -/
def mayIssue : Call → Bool
  | .init _ => true
  | .readSensors => true
  | .command _ => true
  | .read _ _ => false
  | .write _ _ => false
  | .assertReset => false

/-- The host at this point of its procedure can still add commands: at every point but after `COMPH`, the last command
of `read_sensors` (R213); `init` may still issue its `SRST` (R200). -/
def procMayIssue : Proc → Bool
  | .idle => false
  | .initId => true
  | .initCalTp => true
  | .initCalH1 => true
  | .initCalH2 _ => true
  | .initCtrl => true
  | .poll _ => true
  | .burst _ => true
  | .awaitT => true
  | .awaitP _ => true
  | .awaitH _ _ => false

/-- R278: the run of the host's command list has ended: no command waits at the port, none can come any more from the
host's procedure or from a call still to be made, and the last one has answered. -/
def runEnded (s : State) : Prop :=
  s.cmds = [] ∧ procMayIssue s.drv.proc = false ∧ s.drv.calls.any mayIssue = false ∧ s.resp.isSome = true

/-- R278: a state is good for a claim that reads these registers when no fault has been recorded and each of them has
its valid bit set. -/
def good (s : State) (reads : List Register) : Prop :=
  s.ce.status.flt = 0#8 ∧ ∀ r ∈ reads, r.isValid s.ce = true

/-- Two blocks that no command can tell apart: they agree on the image bytes that are valid, on `STATUS`, and on every
register whose valid bit is 1 (R37). -/
structure SameVisible (a b : Block) : Prop where
  image : ∀ x, a.image.read x = b.image.read x
  status : a.status = b.status
  cal : a.status.calv = true → a.cal = b.cal
  adcT : a.status.avt = true → a.adcT = b.adcT
  adcP : a.status.avp = true → a.adcP = b.adcP
  adcH : a.status.avh = true → a.adcH = b.adcH
  tFine : a.status.tfv = true → a.tFine = b.tFine
  tOut : a.status.tfv = true → a.tOut = b.tOut
  pOut : a.status.pv = true → a.pOut = b.pOut
  hOut : a.status.hv = true → a.hOut = b.hOut

/-- Two states that differ at most in values the block does not hold (R37, R38): the blocks look the same and
everything outside the block is equal. -/
structure Indistinguishable (s t : State) : Prop where
  ce : SameVisible s.ce t.ce
  params : s.params = t.params
  cmds : s.cmds = t.cmds
  pos : s.pos = t.pos
  resp : s.resp = t.resp
  resetIn : s.resetIn = t.resetIn
  drv : s.drv = t.drv

end Sys2Proof.Safety
end

