-- ==== Sys2Proof/Certificates/Slice0/Obligations.lean ====
section
/-!
DEFINITION. The statements for the provers. Each formalises rules of spec/ named in its comment and in OBLIGATIONS.json.
-/

open Sys2Proof Sys2Proof.Machine Sys2Proof.Safety

/-! ### Shapes of a next state, written out -/

/-- R233: the state after the fault with this code. -/
def Sys2Proof.Claims.faulted (s : State) (code : BitVec 8) : State :=
  { s with
    ce := { s.ce with status := { s.ce.status with flt := if s.ce.status.flt = 0#8 then code else s.ce.status.flt } }
    resp := some ⟨code, 0#32⟩ }

/-- The state after a completion: the block becomes `b`, the response is `(code, v)`, nothing else changes. -/
def Sys2Proof.Claims.answered (s : State) (b : Block) (code : BitVec 8) (v : Word) : State :=
  { s with ce := b, resp := some ⟨code, v⟩ }

/-- R147: `OKOVF` or `OK`. -/
def Sys2Proof.Claims.compCode (ovf : Bool) : BitVec 8 := if ovf then 0x01#8 else 0x00#8

/-- The state answered its last command with a completion (`RCODE[7:4] = 0`, R91). -/
def Sys2Proof.Claims.completed (s : State) : Prop := ∃ r, s.resp = some r ∧ r.rcode.toNat < 16

/-- R33: the status at the start of a new sample cycle. -/
def Sys2Proof.Claims.newCycle (st : Status) : Status := { st with tfv := false, pv := false, hv := false }

open Sys2Proof.Claims

/-! ### Decoding and encoding -/

/-- R88's list of the illegal words, field by field in plain arithmetic. -/
def Sys2Proof.Claims.illegalWord (w : Word) : Prop :=
  let n := w.toNat
  let op := n / 2 ^ 24
  (0x0B ≤ op ∧ op ≤ 0x0E) ∨ 0x10 ≤ op ∨
  ((op = 0x00 ∨ op = 0x03 ∨ op = 0x04 ∨ op = 0x06 ∨ op = 0x07 ∨ op = 0x08 ∨ op = 0x0F) ∧ n % 2 ^ 24 ≠ 0) ∨
  (op = 0x01 ∧ n / 2 ^ 16 % 2 ^ 8 ≠ 0) ∨
  (op = 0x02 ∧ (n / 2 ^ 16 % 2 ^ 8 ≠ 0 ∨ n % 2 ^ 8 ≠ 0)) ∨
  (op = 0x05 ∧ (3 ≤ n / 2 ^ 20 % 2 ^ 4 ∨ (n / 2 ^ 20 % 2 ^ 4 = 2 ∧ n / 2 ^ 16 % 2 ^ 4 ≠ 0))) ∨
  (op = 0x09 ∧ (8 ≤ n / 2 ^ 20 % 2 ^ 4 ∨ n % 2 ^ 20 ≠ 0)) ∨
  (op = 0x0A ∧ (n / 2 ^ 5 % 2 ^ 19 ≠ 0 ∨ 18 ≤ n % 2 ^ 5))

/-- R11, R40, R87: with no reset asserted and a word at the port that decodes to `i`, the step is `exec i` on the state
from which the word has been taken and the position advanced. -/
def Obligations.StepRunsThePresentedCommand : Prop :=
  ∀ (s : State) (w : Word) (rest : List Word) (i : Instr),
    s.resetIn = false → s.cmds = w :: rest → decode w = .ok i →
    step s = exec i { s with cmds := rest, pos := s.pos + 1 }

/-- R88: the illegal words are exactly the listed ones, and each raises `ILLEGAL_COMMAND`: only `FLT` can change. -/
def Obligations.IllegalWordsAreExactlyTheListed : Prop :=
  ∀ w : Word,
    ((∃ e, decode w = .error e) ↔ illegalWord w) ∧
    ∀ (s : State) (rest : List Word), s.resetIn = false → s.cmds = w :: rest → illegalWord w →
      step s = .next (faulted { s with cmds := rest, pos := s.pos + 1 } 0x10#8)

/-- Every well-formed command is read back from its word; the word of an ill-formed term is refused. -/
def Obligations.DecodeOfEncodeIsTheCommand : Prop :=
  ∀ i : Instr, (i.wellFormed = true → decode (encode i) = .ok i) ∧
    (i.wellFormed = false → ∃ e, decode (encode i) = .error e)

/-- No two words are the same command, and no command the decoder gives is ill-formed. -/
def Obligations.EncodeOfDecodeIsTheWord : Prop :=
  ∀ (w : Word) (i : Instr), decode w = .ok i → encode i = w ∧ i.wellFormed = true

/-- R87: the decoder is R84's table: a word is a command exactly when it matches a row with its extra condition, the
command is that row's, and no word matches two rows. -/
def Obligations.DecodeFollowsTheOpcodeTable : Prop :=
  ∀ w : Word,
    (∀ i, decode w = .ok i → ∃ row ∈ opcodeRows, row.mnemonic = i.mnemonic ∧ row.isMatch w = true) ∧
    (∀ row ∈ opcodeRows, row.isMatch w = true → ∃ i, decode w = .ok i ∧ i.mnemonic = row.mnemonic) ∧
    ∀ a ∈ opcodeRows, ∀ b ∈ opcodeRows, a.isMatch w = true → b.isMatch w = true → a = b

/-- Words of 95_test_vectors section 3, one or two per family. -/
def Obligations.SampleWordsDecodeAsWritten : Prop :=
  decode 0x00000000#32 = .ok .nop ∧ decode 0x01002065#32 = .ok (.wrb 32#8 0x65#8) ∧
  decode 0x02002800#32 = .ok (.rdb 40#8) ∧ decode 0x03000000#32 = .ok .caldec ∧
  decode 0x0507EED0#32 = .ok (.setadcT 519888#20) ∧ decode 0x0520FFFF#32 = .ok (.setadcH 65535#16) ∧
  decode 0x07000000#32 = .ok .compp ∧ decode 0x09400000#32 = .ok (.rdr .status) ∧
  decode 0x0A000011#32 = .ok (.rdc 17#5) ∧ decode 0x0F000000#32 = .ok .srst

/-! ### Buffer and control commands -/

/-- R100: `NOP` answers `(OK, 0)` in every state and changes nothing; its word is `0x00000000`, and any other word under
its opcode is illegal. -/
def Obligations.NopAnswersOk : Prop :=
  (∀ s : State, exec .nop s = .next (answered s s.ce 0x00#8 0#32)) ∧
  encode .nop = 0x00000000#32 ∧
  ∀ w : Word, w.toNat < 2 ^ 24 → w.toNat ≠ 0 → ∃ e, decode w = .error e

/-- R101, R63: `WRB` stores its byte below address 40 and leaves every other byte alone; from address 40 on it raises
`ADDRESS_FAULT`. -/
def Obligations.WrbStoresOneByte : Prop :=
  ∀ (addr data : Byte) (s : State),
    (encode (.wrb addr data)).toNat = 0x01000000 + addr.toNat * 2 ^ 8 + data.toNat ∧
    (addr.toNat < 40 →
      exec (.wrb addr data) s =
        .next (answered s { s.ce with image := s.ce.image.write addr.toNat data } 0x00#8 0#32) ∧
      (s.ce.image.write addr.toNat data).read addr.toNat = some data ∧
      ∀ x, x ≠ addr.toNat → (s.ce.image.write addr.toNat data).read x = s.ce.image.read x) ∧
    (40 ≤ addr.toNat → exec (.wrb addr data) s = .next (faulted s 0x11#8))

/-- R102, R62: `RDB` answers a valid byte zero-extended and consumes nothing; address first, then validity. -/
def Obligations.RdbReadsOneByte : Prop :=
  ∀ (addr : Byte) (s : State),
    (encode (.rdb addr)).toNat = 0x02000000 + addr.toNat * 2 ^ 8 ∧
    (40 ≤ addr.toNat → exec (.rdb addr) s = .next (faulted s 0x11#8)) ∧
    (addr.toNat < 40 → s.ce.image.read addr.toNat = none → exec (.rdb addr) s = .next (faulted s 0x12#8)) ∧
    ∀ v, addr.toNat < 40 → s.ce.image.read addr.toNat = some v →
      exec (.rdb addr) s = .next (answered s s.ce 0x00#8 (BitVec.ofNat 32 v.toNat))

/-- R103: `SRST` leaves the block as reset does, in everything that holds a value: `STATUS` zero, no image byte valid;
`(OK, 0)`. It is the only
command that clears `CALV`, `OVF` or `FLT`, and every compensation command after it faults with `CAL_NOT_VALID`. -/
def Obligations.SrstGivesTheResetState : Prop :=
  encode .srst = 0x0F000000#32 ∧
  (∀ s : State, ∃ b : Block, exec .srst s = .next (answered s b 0x00#8 0#32) ∧ SameVisible b State.reset.ce ∧
    b.status.toWord = 0#32 ∧ ∀ a, b.image.read a = none) ∧
  (∀ s t : State, exec .srst s = .next t →
    exec .compt t = .next (faulted t 0x13#8) ∧ exec .compp t = .next (faulted t 0x13#8) ∧
    exec .comph t = .next (faulted t 0x13#8)) ∧
  ∀ (i : Instr) (s t : State), exec i s = .next t → i ≠ .srst →
    (s.ce.status.calv = true → t.ce.status.calv = true) ∧
    (s.ce.status.ovf = true → t.ce.status.ovf = true) ∧
    (s.ce.status.flt ≠ 0#8 → t.ce.status.flt = s.ce.status.flt)

/-! ### Decoders -/

/-- R121: `s16`. -/
def Sys2Proof.Claims.s16 (n : Nat) : Int := if 32768 ≤ n then (n : Int) - 65536 else n

/-- R123: `h12`. -/
def Sys2Proof.Claims.twelve (signExtend : Bool) (n : Nat) : Int :=
  if signExtend ∧ 2048 ≤ n then (n : Int) - 4096 else n

/-- R120 to R122: with the 32 bytes `b 0` to `b 31` valid, `CALDEC` loads the eighteen coefficients, sets `CALV`, clears
`TFV`, `PV`, `HV`, consumes the 32 bytes and no other; with one of them not valid it raises `IMAGE_NOT_VALID`. -/
def Obligations.CaldecLoadsTheCoefficients : Prop :=
  encode .caldec = 0x03000000#32 ∧
  (∀ (s : State) (a : Nat), a < 32 → s.ce.image.read a = none → exec .caldec s = .next (faulted s 0x12#8)) ∧
  ∀ (s : State) (b : Nat → Byte), (∀ a, a < 32 → s.ce.image.read a = some (b a)) →
    ∃ (c : Calib) (m : Memory),
      exec .caldec s = .next (answered s
        { s.ce with cal := c, image := m, status := { newCycle s.ce.status with calv := true } } 0x00#8 0#32) ∧
      (∀ a, a < 32 → m.read a = none) ∧ (∀ a, 32 ≤ a → m.read a = s.ce.image.read a) ∧
      c.digT1.toNat = (b 0).toNat + 256 * (b 1).toNat ∧
      c.digT2.toInt = s16 ((b 2).toNat + 256 * (b 3).toNat) ∧
      c.digT3.toInt = s16 ((b 4).toNat + 256 * (b 5).toNat) ∧
      c.digP1.toNat = (b 6).toNat + 256 * (b 7).toNat ∧
      c.digP2.toInt = s16 ((b 8).toNat + 256 * (b 9).toNat) ∧
      c.digP3.toInt = s16 ((b 10).toNat + 256 * (b 11).toNat) ∧
      c.digP4.toInt = s16 ((b 12).toNat + 256 * (b 13).toNat) ∧
      c.digP5.toInt = s16 ((b 14).toNat + 256 * (b 15).toNat) ∧
      c.digP6.toInt = s16 ((b 16).toNat + 256 * (b 17).toNat) ∧
      c.digP7.toInt = s16 ((b 18).toNat + 256 * (b 19).toNat) ∧
      c.digP8.toInt = s16 ((b 20).toNat + 256 * (b 21).toNat) ∧
      c.digP9.toInt = s16 ((b 22).toNat + 256 * (b 23).toNat) ∧
      c.digH1.toNat = (b 24).toNat ∧
      c.digH2.toInt = s16 ((b 25).toNat + 256 * (b 26).toNat) ∧
      c.digH3.toNat = (b 27).toNat ∧
      c.digH4.toInt = twelve s.params.h45SignExtend ((b 28).toNat * 16 + (b 29).toNat % 16) ∧
      c.digH5.toInt = twelve s.params.h45SignExtend ((b 30).toNat * 16 + (b 29).toNat / 16) ∧
      c.digH6.toInt = (if 128 ≤ (b 31).toNat then ((b 31).toNat : Int) - 256 else (b 31).toNat)

/-- R234: `RDB` of a byte that is not valid, and a decoder with one byte of its region not valid, raise
`IMAGE_NOT_VALID`; nothing else raises it. -/
def Obligations.ImageNotValidIsRaisedByThree : Prop :=
  (∀ (i : Instr) (s t : State), exec i s = .next t → t.resp = some ⟨0x12#8, 0#32⟩ →
    (∃ a, i = .rdb a) ∨ i = .caldec ∨ i = .rawdec) ∧
  (∀ (s : State) (a : Byte), a.toNat < 40 → s.ce.image.read a.toNat = none →
    exec (.rdb a) s = .next (faulted s 0x12#8)) ∧
  (∀ (s : State) (a : Nat), a < 32 → s.ce.image.read a = none → exec .caldec s = .next (faulted s 0x12#8)) ∧
  ∀ (s : State) (a : Nat), 32 ≤ a → a < 40 → s.ce.image.read a = none → exec .rawdec s = .next (faulted s 0x12#8)

/-- R125, R126: with the eight bytes valid, `RAWDEC` loads the three raw codes under `XLSB_MASK`, sets `AVT`, `AVP`,
`AVH`, clears `TFV`, `PV`, `HV`, consumes the eight bytes and no other; with one of them not valid it raises
`IMAGE_NOT_VALID`. -/
def Obligations.RawdecLoadsTheRawCodes : Prop :=
  encode .rawdec = 0x04000000#32 ∧
  (∀ (s : State) (a : Nat), 32 ≤ a → a < 40 → s.ce.image.read a = none → exec .rawdec s = .next (faulted s 0x12#8)) ∧
  ∀ (s : State) (b : Nat → Byte), (∀ i, i < 8 → s.ce.image.read (32 + i) = some (b i)) →
    ∃ (t p h : Word) (m : Memory),
      exec .rawdec s = .next (answered s
        { s.ce with
          adcT := t, adcP := p, adcH := h, image := m
          status := { newCycle s.ce.status with avt := true, avp := true, avh := true } } 0x00#8 0#32) ∧
      (∀ a, 32 ≤ a → a < 40 → m.read a = none) ∧ (∀ a, a < 32 ∨ 40 ≤ a → m.read a = s.ce.image.read a) ∧
      p.toNat = (b 0).toNat * 2 ^ 12 + (b 1).toNat * 2 ^ 4 + ((b 2).toNat / 2 ^ 4 &&& s.params.xlsbMask.toNat) ∧
      t.toNat = (b 3).toNat * 2 ^ 12 + (b 4).toNat * 2 ^ 4 + ((b 5).toNat / 2 ^ 4 &&& s.params.xlsbMask.toNat) ∧
      h.toNat = (b 6).toNat * 2 ^ 8 + (b 7).toNat

/-- R128: `SETADC` zero-extends its immediate into one raw-code register, sets that register's valid bit and starts a new
sample cycle; it never faults; a selector from 3 on, and a humidity code above 16 bits, are illegal words. -/
def Obligations.SetadcLoadsOneRawCode : Prop :=
  (∀ (v : BitVec 20) (s : State),
    (encode (.setadcT v)).toNat = 0x05000000 + v.toNat ∧
    exec (.setadcT v) s = .next (answered s
      { s.ce with adcT := BitVec.ofNat 32 v.toNat, status := { newCycle s.ce.status with avt := true } } 0x00#8 0#32)) ∧
  (∀ (v : BitVec 20) (s : State),
    (encode (.setadcP v)).toNat = 0x05100000 + v.toNat ∧
    exec (.setadcP v) s = .next (answered s
      { s.ce with adcP := BitVec.ofNat 32 v.toNat, status := { newCycle s.ce.status with avp := true } } 0x00#8 0#32)) ∧
  (∀ (v : BitVec 16) (s : State),
    (encode (.setadcH v)).toNat = 0x05200000 + v.toNat ∧
    exec (.setadcH v) s = .next (answered s
      { s.ce with adcH := BitVec.ofNat 32 v.toNat, status := { newCycle s.ce.status with avh := true } } 0x00#8 0#32)) ∧
  ∀ w : Word, w.toNat / 2 ^ 24 = 0x05 →
    (3 ≤ w.toNat / 2 ^ 20 % 2 ^ 4 ∨ (w.toNat / 2 ^ 20 % 2 ^ 4 = 2 ∧ w.toNat / 2 ^ 16 % 2 ^ 4 ≠ 0)) →
    ∃ e, decode w = .error e

/-- R123: the two 12-bit coefficients by either reading: sign-extended from bit 11, which is the high byte read as
signed times 16 plus the nibble; or not extended. -/
def Obligations.TwelveBitCoefficients : Prop :=
  (∀ (signExtend : Bool) (b : Nat → Byte),
    (decodeCalib signExtend b).digH4 = h12 signExtend (h4Bits (b 28) (b 29)) ∧
    (decodeCalib signExtend b).digH5 = h12 signExtend (h5Bits (b 29) (b 30))) ∧
  ∀ h3 h4 h5 : Byte,
    (h4Bits h3 h4).toNat = h3.toNat * 16 + h4.toNat % 16 ∧ (h5Bits h4 h5).toNat = h5.toNat * 16 + h4.toNat / 16 ∧
    (∀ v : BitVec 12, (h12 true v).toInt = (if 2048 ≤ v.toNat then (v.toNat : Int) - 4096 else v.toNat)) ∧
    (∀ v : BitVec 12, (h12 false v).toInt = v.toNat) ∧
    (h12 true (h4Bits h3 h4)).toInt = h3.toInt * 16 + (h4.toNat % 16 : Nat) ∧
    (h12 true (h5Bits h4 h5)).toInt = h5.toInt * 16 + (h4.toNat / 16 : Nat)

/-- R127: through `RAWDEC` a 20-bit raw code takes exactly the values with `n[3:0] & ~XLSB_MASK = 0`, a 16-bit one every
value; through `SETADC` every value is reachable. -/
def Obligations.ReachableRawCodes : Prop :=
  (∀ (mask : BitVec 4) (n : Nat),
    ((∃ s t : State, s.params.xlsbMask = mask ∧ exec .rawdec s = .next t ∧ completed t ∧ t.ce.adcT.toNat = n) ↔
      n ≤ 1048575 ∧ n % 16 &&& (15 - mask.toNat) = 0) ∧
    ((∃ s t : State, s.params.xlsbMask = mask ∧ exec .rawdec s = .next t ∧ completed t ∧ t.ce.adcP.toNat = n) ↔
      n ≤ 1048575 ∧ n % 16 &&& (15 - mask.toNat) = 0)) ∧
  (∀ n : Nat, (∃ s t : State, exec .rawdec s = .next t ∧ completed t ∧ t.ce.adcH.toNat = n) ↔ n ≤ 65535) ∧
  (∀ n : Nat, n ≤ 1048575 ∧ n % 16 &&& (15 - (4#4).toNat) = 0 ↔ n ≤ 1048575 ∧ (n % 16 = 0 ∨ n % 16 = 4)) ∧
  ∀ (s : State) (n : Nat), n ≤ 1048575 →
    (∃ v t, exec (.setadcT v) s = .next t ∧ t.ce.adcT.toNat = n) ∧
    (∃ v t, exec (.setadcP v) s = .next t ∧ t.ce.adcP.toNat = n) ∧
    (n ≤ 65535 → ∃ v t, exec (.setadcH v) s = .next t ∧ t.ce.adcH.toNat = n)

/-- R129: `RAWDEC` is three `SETADC`s with R125's values and the consumption of the eight bytes. -/
def Obligations.RawdecIsThreeSetadcs : Prop :=
  ∀ s : State, s.ce.image.allValid 32 8 = true →
    ∃ (t p : BitVec 20) (h : BitVec 16) (a b c r : State),
      t.toNat = (s.ce.image.byte 35).toNat * 2 ^ 12 + (s.ce.image.byte 36).toNat * 2 ^ 4 +
        ((s.ce.image.byte 37).toNat / 2 ^ 4 &&& s.params.xlsbMask.toNat) ∧
      p.toNat = (s.ce.image.byte 32).toNat * 2 ^ 12 + (s.ce.image.byte 33).toNat * 2 ^ 4 +
        ((s.ce.image.byte 34).toNat / 2 ^ 4 &&& s.params.xlsbMask.toNat) ∧
      h.toNat = (s.ce.image.byte 38).toNat * 2 ^ 8 + (s.ce.image.byte 39).toNat ∧
      exec (.setadcT t) s = .next a ∧ exec (.setadcP p) a = .next b ∧ exec (.setadcH h) b = .next c ∧
      exec .rawdec s = .next r ∧
      r = { c with ce := { c.ce with image := s.ce.image.consume 32 40 } } ∧
      ∀ x, (s.ce.image.consume 32 40).read x = if 32 ≤ x ∧ x < 40 then none else s.ce.image.read x

/-! ### Compensation -/

/-- R141: for 32 and 64 bits (and any width), `wrap` gives the unique value in the signed range that is congruent to the
exact one, and a step overflowed exactly when that is another value. -/
def Obligations.WrapIsTheUniqueRepresentative : Prop :=
  ∀ (n : Nat) (e : Int), 0 < n →
    (-2 ^ (n - 1) ≤ wrap n e ∧ wrap n e ≤ 2 ^ (n - 1) - 1 ∧ (2 : Int) ^ n ∣ wrap n e - e) ∧
    (∀ r : Int, -2 ^ (n - 1) ≤ r → r ≤ 2 ^ (n - 1) - 1 → (2 : Int) ^ n ∣ r - e → r = wrap n e) ∧
    (wraps n e = true ↔ wrap n e ≠ e)

/-- R142: `asr v k` is the floor of `v / 2^k`, never overflows, and gives the rule's three examples. -/
def Obligations.RightShiftIsTheFloor : Prop :=
  (∀ (v : Int) (k : Nat), asr v k * 2 ^ k ≤ v ∧ v < (asr v k + 1) * 2 ^ k) ∧
  (∀ (n k : Nat) (v : Int), 0 < k → k < n → -2 ^ (n - 1) ≤ v → v < 2 ^ (n - 1) → wraps n (asr v k) = false) ∧
  asr (-1) 8 = -1 ∧ asr (-371 * 16384 + 1) 14 = -371 ∧ asr (-6076000) 14 = -371

/-- R145: the division rounds toward zero, and on 64-bit operands overflows in one case only. -/
def Obligations.DivisionRoundsTowardZero : Prop :=
  (∀ n d : Int, d ≠ 0 → tdiv n d = Int.tdiv n d) ∧
  (tdiv 7 2 = 3 ∧ tdiv (-7) 2 = -3 ∧ tdiv 7 (-2) = -3 ∧ tdiv (-7) (-2) = 3 ∧ ∀ d, d ≠ 0 → tdiv 0 d = 0) ∧
  (∀ n d : Int, d ≠ 0 → -2 ^ 63 ≤ n → n < 2 ^ 63 → -2 ^ 63 ≤ d → d < 2 ^ 63 →
    (wraps 64 (tdiv n d) = true ↔ n = -2 ^ 63 ∧ d = -1)) ∧
  wrap 64 (tdiv (-2 ^ 63) (-1)) = -2 ^ 63

/-- R149: the three checks, in their order, for the three commands; each fault changes nothing but `FLT`. -/
def Obligations.CompensationChecksInOrder : Prop :=
  ∀ s : State,
    (s.ce.status.calv = false →
      exec .compt s = .next (faulted s 0x13#8) ∧ exec .compp s = .next (faulted s 0x13#8) ∧
      exec .comph s = .next (faulted s 0x13#8)) ∧
    (s.ce.status.calv = true →
      (s.ce.status.avt = false → exec .compt s = .next (faulted s 0x14#8)) ∧
      (s.ce.status.avp = false → exec .compp s = .next (faulted s 0x14#8)) ∧
      (s.ce.status.avh = false → exec .comph s = .next (faulted s 0x14#8)) ∧
      (s.ce.status.avp = true → s.ce.status.tfv = false → exec .compp s = .next (faulted s 0x15#8)) ∧
      (s.ce.status.avh = true → s.ce.status.tfv = false → exec .comph s = .next (faulted s 0x15#8)))

/-- R150: `COMPT`, step by step. For the values the fifteen steps give, the command writes `T_FINE` and `T_OUT`, sets
`TFV`, records an overflow exactly when some step's value is not the exact one, and answers the temperature; without
`CALV`, then without `AVT`, it faults. -/
def Obligations.ComptComputesTheTemperature : Prop :=
  encode .compt = 0x06000000#32 ∧
  (∀ s : State, (s.ce.status.calv = false → exec .compt s = .next (faulted s 0x13#8)) ∧
    (s.ce.status.calv = true → s.ce.status.avt = false → exec .compt s = .next (faulted s 0x14#8))) ∧
  ∀ (s : State) (adc t1 t2 t3 a1 b1 c1 m1 var1 a2 c2 m2 s2 m3 var2 tf u1 u2 t : Int) (ovf : Bool),
    s.ce.status.calv = true → s.ce.status.avt = true →
    adc = s.ce.adcT.toInt → t1 = s.ce.cal.digT1.toNat → t2 = s.ce.cal.digT2.toInt → t3 = s.ce.cal.digT3.toInt →
    a1 = adc / 2 ^ 3 → b1 = wrap 32 (t1 * 2) → c1 = wrap 32 (a1 - b1) → m1 = wrap 32 (c1 * t2) →
    var1 = m1 / 2 ^ 11 → a2 = adc / 2 ^ 4 → c2 = wrap 32 (a2 - t1) → m2 = wrap 32 (c2 * c2) →
    s2 = m2 / 2 ^ 12 → m3 = wrap 32 (s2 * t3) → var2 = m3 / 2 ^ 14 → tf = wrap 32 (var1 + var2) →
    u1 = wrap 32 (tf * 5) → u2 = wrap 32 (u1 + 128) → t = u2 / 2 ^ 8 →
    (ovf = true ↔ b1 ≠ t1 * 2 ∨ c1 ≠ a1 - b1 ∨ m1 ≠ c1 * t2 ∨ c2 ≠ a2 - t1 ∨ m2 ≠ c2 * c2 ∨ m3 ≠ s2 * t3 ∨
      tf ≠ var1 + var2 ∨ u1 ≠ tf * 5 ∨ u2 ≠ u1 + 128) →
    exec .compt s = .next (answered s
      { s.ce with
        tFine := BitVec.ofInt 32 tf, tOut := BitVec.ofInt 32 t
        status := { s.ce.status with tfv := true, ovf := s.ce.status.ovf || ovf } }
      (compCode ovf) (BitVec.ofInt 32 t))

/-- R155, the steps up to `den`, for the pressure inputs of the block, with `ovf` whether one of them wrapped. -/
def Sys2Proof.Claims.PressureDenominator (b : Block) (v2 den : Int) (ovf : Prop) : Prop :=
  ∃ v1 q1 v2a q2 q3 v2b q4 q5 q6 q7 q8 v1b q9 q10 : Int,
    v1 = wrap 64 (b.tFine.toInt - 128000) ∧ q1 = wrap 64 (v1 * v1) ∧ v2a = wrap 64 (q1 * b.cal.digP6.toInt) ∧
    q2 = wrap 64 (v1 * b.cal.digP5.toInt) ∧ q3 = wrap 64 (q2 * 2 ^ 17) ∧ v2b = wrap 64 (v2a + q3) ∧
    q4 = wrap 64 (b.cal.digP4.toInt * 2 ^ 35) ∧ v2 = wrap 64 (v2b + q4) ∧ q5 = wrap 64 (q1 * b.cal.digP3.toInt) ∧
    q6 = q5 / 2 ^ 8 ∧ q7 = wrap 64 (v1 * b.cal.digP2.toInt) ∧ q8 = wrap 64 (q7 * 2 ^ 12) ∧
    v1b = wrap 64 (q6 + q8) ∧ q9 = wrap 64 (2 ^ 47 + v1b) ∧ q10 = wrap 64 (q9 * b.cal.digP1.toNat) ∧
    den = q10 / 2 ^ 33 ∧
    (ovf ↔ v1 ≠ b.tFine.toInt - 128000 ∨ q1 ≠ v1 * v1 ∨ v2a ≠ q1 * b.cal.digP6.toInt ∨
      q2 ≠ v1 * b.cal.digP5.toInt ∨ q3 ≠ q2 * 2 ^ 17 ∨ v2b ≠ v2a + q3 ∨ q4 ≠ b.cal.digP4.toInt * 2 ^ 35 ∨
      v2 ≠ v2b + q4 ∨ q5 ≠ q1 * b.cal.digP3.toInt ∨ q7 ≠ v1 * b.cal.digP2.toInt ∨ q8 ≠ q7 * 2 ^ 12 ∨
      v1b ≠ q6 + q8 ∨ q9 ≠ 2 ^ 47 + v1b ∨ q10 ≠ q9 * b.cal.digP1.toNat)

/-- R155, the steps from `p0` to `p5`, with `ovf` whether one of them wrapped. -/
def Sys2Proof.Claims.PressureQuotient (b : Block) (v2 den p5 : Int) (ovf : Prop) : Prop :=
  ∃ p0 p1 p2 p3 p4 s r1 r2 w1 r3 w2 r4 r5 r6 r7 : Int,
    p0 = wrap 64 (1048576 - b.adcP.toInt) ∧ p1 = wrap 64 (p0 * 2 ^ 31) ∧ p2 = wrap 64 (p1 - v2) ∧
    p3 = wrap 64 (p2 * 3125) ∧ p4 = wrap 64 (Int.tdiv p3 den) ∧ s = p4 / 2 ^ 13 ∧
    r1 = wrap 64 (b.cal.digP9.toInt * s) ∧ r2 = wrap 64 (r1 * s) ∧ w1 = r2 / 2 ^ 25 ∧
    r3 = wrap 64 (b.cal.digP8.toInt * p4) ∧ w2 = r3 / 2 ^ 19 ∧ r4 = wrap 64 (p4 + w1) ∧ r5 = wrap 64 (r4 + w2) ∧
    r6 = r5 / 2 ^ 8 ∧ r7 = wrap 64 (b.cal.digP7.toInt * 2 ^ 4) ∧ p5 = wrap 64 (r6 + r7) ∧
    (ovf ↔ p0 ≠ 1048576 - b.adcP.toInt ∨ p1 ≠ p0 * 2 ^ 31 ∨ p2 ≠ p1 - v2 ∨ p3 ≠ p2 * 3125 ∨
      p4 ≠ Int.tdiv p3 den ∨ r1 ≠ b.cal.digP9.toInt * s ∨ r2 ≠ r1 * s ∨ r3 ≠ b.cal.digP8.toInt * p4 ∨
      r4 ≠ p4 + w1 ∨ r5 ≠ r4 + w2 ∨ r7 ≠ b.cal.digP7.toInt * 2 ^ 4 ∨ p5 ≠ r6 + r7)

/-- The three checks of R149 for `COMPP` and `COMPH`, whose raw code's valid bit is `av`. -/
def Sys2Proof.Claims.checksInOrder (i : Instr) (s : State) (av : Bool) : Prop :=
  (s.ce.status.calv = false → exec i s = .next (faulted s 0x13#8)) ∧
  (s.ce.status.calv = true → av = false → exec i s = .next (faulted s 0x14#8)) ∧
  (s.ce.status.calv = true → av = true → s.ce.status.tfv = false → exec i s = .next (faulted s 0x15#8))

/-- R155, R157: `COMPP`. With a denominator that is not zero `P_OUT` is the low 32 bits of `p5`, and an overflow is
recorded when a step wrapped or `p5` is no unsigned 32-bit number; with a zero one it is 0. Without `CALV`, then `AVP`,
then `TFV`, it faults. -/
def Obligations.ComppComputesThePressure : Prop :=
  encode .compp = 0x07000000#32 ∧
  (∀ s : State, checksInOrder .compp s s.ce.status.avp) ∧
  (∀ (s : State) (v2 : Int) (o1 : Prop) (ovf : Bool),
    s.ce.status.calv = true → s.ce.status.avp = true → s.ce.status.tfv = true →
    PressureDenominator s.ce v2 0 o1 → (ovf = true ↔ o1) →
    exec .compp s = .next (answered s
      { s.ce with pOut := 0#32, status := { s.ce.status with pv := true, ovf := s.ce.status.ovf || ovf } }
      (compCode ovf) 0#32)) ∧
  ∀ (s : State) (v2 den p5 : Int) (o1 o2 : Prop) (ovf : Bool),
    s.ce.status.calv = true → s.ce.status.avp = true → s.ce.status.tfv = true →
    PressureDenominator s.ce v2 den o1 → den ≠ 0 → PressureQuotient s.ce v2 den p5 o2 →
    (ovf = true ↔ o1 ∨ o2 ∨ p5 < 0 ∨ 2 ^ 32 ≤ p5) →
    exec .compp s = .next (answered s
      { s.ce with
        pOut := BitVec.ofNat 32 (p5 % 2 ^ 32).toNat
        status := { s.ce.status with pv := true, ovf := s.ce.status.ovf || ovf } }
      (compCode ovf) (BitVec.ofNat 32 (p5 % 2 ^ 32).toNat))

/-- R156: a zero denominator gives `P_OUT = 0` and `PV`, no fault; `dig_P1 = 0` always gives one. -/
def Obligations.PressureSentinel : Prop :=
  (∀ (s : State) (v2 : Int) (o1 : Prop) (ovf : Bool),
    s.ce.status.calv = true → s.ce.status.avp = true → s.ce.status.tfv = true →
    PressureDenominator s.ce v2 0 o1 → (ovf = true ↔ o1) →
    exec .compp s = .next (answered s
      { s.ce with pOut := 0#32, status := { s.ce.status with pv := true, ovf := s.ce.status.ovf || ovf } }
      (compCode ovf) 0#32)) ∧
  (∀ q10 : Int, asr q10 33 = 0 ↔ 0 ≤ q10 ∧ q10 < 2 ^ 33) ∧
  ∀ s : State, s.ce.status.calv = true → s.ce.status.avp = true → s.ce.status.tfv = true →
    s.ce.cal.digP1 = 0#16 → ∃ t, exec .compp s = .next t ∧ t.ce.pOut = 0#32 ∧ t.ce.status.pv = true ∧ completed t

/-- R160, R161: `COMPH`, step by step, with the clamp; without `CALV`, then `AVH`, then `TFV`, it faults. -/
def Obligations.ComphComputesTheHumidity : Prop :=
  encode .comph = 0x08000000#32 ∧
  (∀ s : State, checksInOrder .comph s s.ce.status.avh) ∧
  ∀ (s : State) (adc h1 h2 h3 h4 h5 h6 x a b c d e f l g g1 h hs hb i i1 i2 j j1 r y k k2 k3 k4 k5 z z1 z2 hum : Int)
    (ovf : Bool),
    s.ce.status.calv = true → s.ce.status.avh = true → s.ce.status.tfv = true →
    adc = s.ce.adcH.toInt → h1 = s.ce.cal.digH1.toNat → h2 = s.ce.cal.digH2.toInt → h3 = s.ce.cal.digH3.toNat →
    h4 = s.ce.cal.digH4.toInt → h5 = s.ce.cal.digH5.toInt → h6 = s.ce.cal.digH6.toInt →
    x = wrap 32 (s.ce.tFine.toInt - 76800) → a = wrap 32 (adc * 2 ^ 14) → b = wrap 32 (h4 * 2 ^ 20) →
    c = wrap 32 (h5 * x) → d = wrap 32 (a - b) → e = wrap 32 (d - c) → f = wrap 32 (e + 16384) → l = f / 2 ^ 15 →
    g = wrap 32 (x * h6) → g1 = g / 2 ^ 10 → h = wrap 32 (x * h3) → hs = h / 2 ^ 11 → hb = wrap 32 (hs + 32768) →
    i = wrap 32 (g1 * hb) → i1 = i / 2 ^ 10 → i2 = wrap 32 (i1 + 2097152) → j = wrap 32 (i2 * h2) →
    j1 = wrap 32 (j + 8192) → r = j1 / 2 ^ 14 → y = wrap 32 (l * r) → k = y / 2 ^ 15 → k2 = wrap 32 (k * k) →
    k3 = k2 / 2 ^ 7 → k4 = wrap 32 (k3 * h1) → k5 = k4 / 2 ^ 4 → z = wrap 32 (y - k5) →
    z1 = (if z < 0 then 0 else z) → z2 = (if z1 > 419430400 then 419430400 else z1) → hum = z2 / 2 ^ 12 →
    (ovf = true ↔ x ≠ s.ce.tFine.toInt - 76800 ∨ a ≠ adc * 2 ^ 14 ∨ b ≠ h4 * 2 ^ 20 ∨ c ≠ h5 * x ∨ d ≠ a - b ∨
      e ≠ d - c ∨ f ≠ e + 16384 ∨ g ≠ x * h6 ∨ h ≠ x * h3 ∨ hb ≠ hs + 32768 ∨ i ≠ g1 * hb ∨ i2 ≠ i1 + 2097152 ∨
      j ≠ i2 * h2 ∨ j1 ≠ j + 8192 ∨ y ≠ l * r ∨ k2 ≠ k * k ∨ k4 ≠ k3 * h1 ∨ z ≠ y - k5) →
    exec .comph s = .next (answered s
      { s.ce with
        hOut := BitVec.ofInt 32 hum
        status := { s.ce.status with hv := true, ovf := s.ce.status.ovf || ovf } }
      (compCode ovf) (BitVec.ofInt 32 hum))

/-- R166: for every store, fine temperature and raw code the humidity lies in 0..102400, and so does the register after
every `COMPH` that completes. -/
def Obligations.HumidityStaysInRange : Prop :=
  (∀ b : Block, 0 ≤ b.humidity.val ∧ b.humidity.val ≤ 102400) ∧
  ∀ s t : State, exec .comph s = .next t → completed t → t.ce.hOut.toNat ≤ 102400

/-- From R151: for a raw code of 20 bits, `|dig_T2| <= 16384`, `|dig_T3| <= 4096` and `|(ADC_T >> 4) - dig_T1| <= 46340`
no step of `COMPT` overflows. -/
def Obligations.SmallTrimsDoNotOverflow : Prop :=
  ∀ b : Block, b.adcT.toNat ≤ 1048575 → -16384 ≤ b.cal.digT2.toInt → b.cal.digT2.toInt ≤ 16384 →
    -4096 ≤ b.cal.digT3.toInt → b.cal.digT3.toInt ≤ 4096 →
    -46340 ≤ ((b.adcT.toNat / 16 : Nat) : Int) - b.cal.digT1.toNat →
    ((b.adcT.toNat / 16 : Nat) : Int) - b.cal.digT1.toNat ≤ 46340 →
    b.temperature.ovf = false

/-- R34: in a state that meets the invariant, a valid temperature with `OVF = 0` is the reference formula of R150 on
mathematical integers. -/
def Obligations.TemperatureExactWithoutOverflow : Prop :=
  ∀ s : State, MachineInv s → s.ce.status.tfv = true → s.ce.status.ovf = false →
    let adc : Int := s.ce.adcT.toInt
    let t1 : Int := s.ce.cal.digT1.toNat
    let var1 : Int := ((adc / 2 ^ 3 - t1 * 2) * s.ce.cal.digT2.toInt) / 2 ^ 11
    let var2 : Int := (((adc / 2 ^ 4 - t1) * (adc / 2 ^ 4 - t1)) / 2 ^ 12 * s.ce.cal.digT3.toInt) / 2 ^ 14
    s.ce.tFine.toInt = var1 + var2 ∧ s.ce.tOut.toInt = ((var1 + var2) * 5 + 128) / 2 ^ 8

/-- R34: in a state that meets the invariant, a valid humidity with `OVF = 0` is the reference formula of R160 on
mathematical integers, clamped. -/
def Obligations.HumidityExactWithoutOverflow : Prop :=
  ∀ s : State, MachineInv s → s.ce.status.hv = true → s.ce.status.ovf = false →
    let c := s.ce.cal
    let v : Int := s.ce.tFine.toInt - 76800
    let l : Int := (s.ce.adcH.toInt * 2 ^ 14 - c.digH4.toInt * 2 ^ 20 - c.digH5.toInt * v + 16384) / 2 ^ 15
    let r : Int := ((((v * c.digH6.toInt) / 2 ^ 10 * ((v * c.digH3.toNat) / 2 ^ 11 + 32768)) / 2 ^ 10 + 2097152)
      * c.digH2.toInt + 8192) / 2 ^ 14
    let y : Int := l * r
    let z : Int := y - ((y / 2 ^ 15 * (y / 2 ^ 15)) / 2 ^ 7 * c.digH1.toNat) / 2 ^ 4
    (s.ce.hOut.toNat : Int) = (max 0 (min z 419430400)) / 2 ^ 12

/-- R34: in a state that meets the invariant, a valid pressure with `OVF = 0` is the reference formula of R155 on
mathematical integers, and 0 exactly where the denominator is zero or the formula gives 0. -/
def Obligations.PressureExactWithoutOverflow : Prop :=
  ∀ s : State, MachineInv s → s.ce.status.pv = true → s.ce.status.ovf = false →
    let c := s.ce.cal
    let v1 : Int := s.ce.tFine.toInt - 128000
    let v2 : Int := v1 * v1 * c.digP6.toInt + v1 * c.digP5.toInt * 2 ^ 17 + c.digP4.toInt * 2 ^ 35
    let den : Int := ((2 ^ 47 + ((v1 * v1 * c.digP3.toInt) / 2 ^ 8 + v1 * c.digP2.toInt * 2 ^ 12)) * c.digP1.toNat) / 2 ^ 33
    let p : Int := Int.tdiv (((1048576 - s.ce.adcP.toInt) * 2 ^ 31 - v2) * 3125) den
    let w1 : Int := (c.digP9.toInt * (p / 2 ^ 13) * (p / 2 ^ 13)) / 2 ^ 25
    let w2 : Int := (c.digP8.toInt * p) / 2 ^ 19
    (s.ce.pOut.toNat : Int) = if den = 0 then 0 else (p + w1 + w2) / 2 ^ 8 + c.digP7.toInt * 2 ^ 4

/-- R167: repeating a compensation command that completed changes nothing at all. -/
def Obligations.RepeatedCompensationIsIdempotent : Prop :=
  ∀ (i : Instr) (s t : State), (i = .compt ∨ i = .compp ∨ i = .comph) → exec i s = .next t → completed t →
    exec i t = .next t

/-- R33, R237: after a `RAWDEC`, a `SETADC` or a `CALDEC` that completed, the results are gone; no command but `COMPT`
brings `TFV` back; and while it is 0, `COMPP` and `COMPH` with calibration and operand in place raise
`ORDER_VIOLATION`. -/
def Obligations.NewSampleCycleNeedsCompt : Prop :=
  (∀ (i : Instr) (s t : State), exec i s = .next t → i ≠ .compt → s.ce.status.tfv = false →
    t.ce.status.tfv = false) ∧
  (∀ s : State, s.ce.status.tfv = false → s.ce.status.calv = true →
    (s.ce.status.avp = true → exec .compp s = .next (faulted s 0x15#8)) ∧
    (s.ce.status.avh = true → exec .comph s = .next (faulted s 0x15#8))) ∧
  ∀ (i : Instr) (s t : State),
    (i = .rawdec ∨ i = .caldec ∨ (∃ v, i = .setadcT v) ∨ (∃ v, i = .setadcP v) ∨ ∃ v, i = .setadcH v) →
    exec i s = .next t → completed t →
    t.ce.status.tfv = false ∧ t.ce.status.pv = false ∧ t.ce.status.hv = false

/-! ### Read-out -/

/-- R180: `RDR` answers the selected register while it holds a value, `STATUS` always, and changes nothing; a selector
from 8 on or an immediate that is not zero is an illegal word. -/
def Obligations.RdrReadsTheSelectedRegister : Prop :=
  (∀ (sel : RdrSel) (s : State),
    (sel = .tOut → s.ce.status.tfv = true → exec (.rdr sel) s = .next (answered s s.ce 0x00#8 s.ce.tOut)) ∧
    (sel = .pOut → s.ce.status.pv = true → exec (.rdr sel) s = .next (answered s s.ce 0x00#8 s.ce.pOut)) ∧
    (sel = .hOut → s.ce.status.hv = true → exec (.rdr sel) s = .next (answered s s.ce 0x00#8 s.ce.hOut)) ∧
    (sel = .tFine → s.ce.status.tfv = true → exec (.rdr sel) s = .next (answered s s.ce 0x00#8 s.ce.tFine)) ∧
    (sel = .status → exec (.rdr sel) s = .next (answered s s.ce 0x00#8 s.ce.status.toWord)) ∧
    (sel = .adcT → s.ce.status.avt = true → exec (.rdr sel) s = .next (answered s s.ce 0x00#8 s.ce.adcT)) ∧
    (sel = .adcP → s.ce.status.avp = true → exec (.rdr sel) s = .next (answered s s.ce 0x00#8 s.ce.adcP)) ∧
    (sel = .adcH → s.ce.status.avh = true → exec (.rdr sel) s = .next (answered s s.ce 0x00#8 s.ce.adcH))) ∧
  (∀ s : State,
    (s.ce.status.tfv = false → exec (.rdr .tOut) s = .next (faulted s 0x16#8) ∧
      exec (.rdr .tFine) s = .next (faulted s 0x16#8)) ∧
    (s.ce.status.pv = false → exec (.rdr .pOut) s = .next (faulted s 0x16#8)) ∧
    (s.ce.status.hv = false → exec (.rdr .hOut) s = .next (faulted s 0x16#8)) ∧
    (s.ce.status.avt = false → exec (.rdr .adcT) s = .next (faulted s 0x14#8)) ∧
    (s.ce.status.avp = false → exec (.rdr .adcP) s = .next (faulted s 0x14#8)) ∧
    (s.ce.status.avh = false → exec (.rdr .adcH) s = .next (faulted s 0x14#8))) ∧
  [RdrSel.tOut, .pOut, .hOut, .tFine, .status, .adcT, .adcP, .adcH].map (fun r => encode (.rdr r)) =
    [0x09000000#32, 0x09100000#32, 0x09200000#32, 0x09300000#32, 0x09400000#32, 0x09500000#32, 0x09600000#32,
      0x09700000#32] ∧
  ∀ w : Word, w.toNat / 2 ^ 24 = 0x09 → (8 ≤ w.toNat / 2 ^ 20 % 2 ^ 4 ∨ w.toNat % 2 ^ 20 ≠ 0) → ∃ e, decode w = .error e

/-- R31: the word `RDR STATUS` reads, bit by bit as a sum. -/
def Obligations.StatusWordLayout : Prop :=
  ∀ st : Status, st.toWord.toNat =
    st.calv.toNat + 2 * st.avt.toNat + 4 * st.avp.toNat + 8 * st.avh.toNat + 16 * st.tfv.toNat + 32 * st.pv.toNat +
    64 * st.hv.toNat + 128 * st.ovf.toNat + 256 * st.flt.toNat

/-- R24, R182: the value of coefficient `k`, unsigned for `k` = 0, 3, 12, 14 and signed for the others. -/
def Sys2Proof.Claims.coefficient (c : Calib) (k : Nat) : Int :=
  [(c.digT1.toNat : Int), c.digT2.toInt, c.digT3.toInt, (c.digP1.toNat : Int), c.digP2.toInt, c.digP3.toInt,
    c.digP4.toInt, c.digP5.toInt, c.digP6.toInt, c.digP7.toInt, c.digP8.toInt, c.digP9.toInt, (c.digH1.toNat : Int),
    c.digH2.toInt, (c.digH3.toNat : Int), c.digH4.toInt, c.digH5.toInt, c.digH6.toInt].getD k 0

/-- R182: `RDC k` answers coefficient `k` as a 32-bit pattern once `CALV` is set, and changes nothing; without `CALV` it
raises `CAL_NOT_VALID`, and an index above 17, or a bit set above it, is no legal command. -/
def Obligations.RdcReadsTheCoefficient : Prop :=
  (∀ w : Word, w.toNat / 2 ^ 24 = 0x0A → w.toNat / 2 ^ 5 % 2 ^ 19 ≠ 0 → ∃ e, decode w = .error e) ∧
  ∀ (k : BitVec 5) (s : State),
    (encode (.rdc k)).toNat = 0x0A000000 + k.toNat ∧
    (k.toNat ≤ 17 → s.ce.status.calv = true →
      exec (.rdc k) s = .next (answered s s.ce 0x00#8 (BitVec.ofInt 32 (coefficient s.ce.cal k.toNat)))) ∧
    (k.toNat ≤ 17 → s.ce.status.calv = false → exec (.rdc k) s = .next (faulted s 0x13#8)) ∧
    (18 ≤ k.toNat → ∃ e, decode (encode (.rdc k)) = .error e)

/-- R183: `RDR` and `RDC` change no state but `FLT`, and that only by a fault. -/
def Obligations.ReadOutsChangeOnlyFlt : Prop :=
  ∀ (i : Instr) (s t : State), ((∃ r, i = .rdr r) ∨ ∃ k, i = .rdc k) → exec i s = .next t →
    t = { s with
      ce := { s.ce with status := { s.ce.status with flt := t.ce.status.flt } }
      resp := t.resp } ∧
    (completed t → t.ce.status.flt = s.ce.status.flt)

/-! ### Every command -/

/-- R233: a command that ends in a fault changes nothing but `FLT`, which takes the code only if it was 0. -/
def Obligations.FaultsArePrecise : Prop :=
  ∀ (i : Instr) (s t : State) (r : Response), exec i s = .next t → t.resp = some r → isFaultCode r.rcode = true →
    t = faulted s r.rcode

/-- R91, R230: every command answers once, with a known code; the value is 0 on a fault and on the commands that carry
no result. -/
def Obligations.EveryCommandAnswers : Prop :=
  ∀ (i : Instr) (s t : State), exec i s = .next t → ∃ r, t.resp = some r ∧
    (r.rcode.toNat ≤ 1 ∨ (0x10 ≤ r.rcode.toNat ∧ r.rcode.toNat ≤ 0x16)) ∧
    (0x10 ≤ r.rcode.toNat → r.rval = 0#32) ∧
    (r.rcode.toNat = 1 → i = .compt ∨ i = .compp ∨ i = .comph) ∧
    ((∀ a, i ≠ .rdb a) → i ≠ .compt → i ≠ .compp → i ≠ .comph → (∀ x, i ≠ .rdr x) → (∀ k, i ≠ .rdc k) →
      r.rval = 0#32)

/-- R263: what each command needs. -/
def Sys2Proof.Claims.precondition (i : Instr) (s : State) : Prop :=
  match i with
  | .nop => True
  | .wrb addr _ => addr.toNat < 40
  | .rdb addr => addr.toNat < 40 ∧ s.ce.image.ibv addr.toNat = true
  | .caldec => ∀ a, a < 32 → s.ce.image.ibv a = true
  | .rawdec => ∀ a, 32 ≤ a → a < 40 → s.ce.image.ibv a = true
  | .setadcT _ => True
  | .setadcP _ => True
  | .setadcH _ => True
  | .compt => s.ce.status.calv = true ∧ s.ce.status.avt = true
  | .compp => s.ce.status.calv = true ∧ s.ce.status.avp = true ∧ s.ce.status.tfv = true
  | .comph => s.ce.status.calv = true ∧ s.ce.status.avh = true ∧ s.ce.status.tfv = true
  | .rdr .tOut => s.ce.status.tfv = true
  | .rdr .pOut => s.ce.status.pv = true
  | .rdr .hOut => s.ce.status.hv = true
  | .rdr .tFine => s.ce.status.tfv = true
  | .rdr .status => True
  | .rdr .adcT => s.ce.status.avt = true
  | .rdr .adcP => s.ce.status.avp = true
  | .rdr .adcH => s.ce.status.avh = true
  | .rdc _ => s.ce.status.calv = true
  | .srst => True

/-- R263: every well-formed command goes on, and completes exactly when its preconditions hold. -/
def Obligations.CommandsCompleteExactlyWhenPrepared : Prop :=
  ∀ (i : Instr) (s : State), i.wellFormed = true →
    ∃ t, exec i s = .next t ∧ (completed t ↔ precondition i s)

/-- R32: the commands that load `ADC_T`. -/
def Sys2Proof.Claims.loadsT : Instr → Bool
  | .rawdec | .setadcT _ => true
  | _ => false

/-- R32: the commands that load `ADC_P`. -/
def Sys2Proof.Claims.loadsP : Instr → Bool
  | .rawdec | .setadcP _ => true
  | _ => false

/-- R32: the commands that load `ADC_H`. -/
def Sys2Proof.Claims.loadsH : Instr → Bool
  | .rawdec | .setadcH _ => true
  | _ => false

/-- R32: which command sets and clears each flag; a reset clears them all. -/
def Obligations.FlagsChangeAsTabled : Prop :=
  (∀ s : State, s.resetIn = true →
    ∃ t, step s = .next t ∧ t.ce.status = ⟨false, false, false, false, false, false, false, false, 0#8⟩) ∧
  ∀ (i : Instr) (s t : State) (r : Response), exec i s = .next t → t.resp = some r →
    let fault := isFaultCode r.rcode
    let cycle := !fault && (loadsT i || loadsP i || loadsH i || decide (i = .caldec))
    let old := s.ce.status
    t.ce.status =
      if i = .srst then ⟨false, false, false, false, false, false, false, false, 0#8⟩
      else
        { calv := old.calv || (!fault && decide (i = .caldec))
          avt := old.avt || (!fault && loadsT i)
          avp := old.avp || (!fault && loadsP i)
          avh := old.avh || (!fault && loadsH i)
          tfv := !cycle && (old.tfv || (!fault && decide (i = .compt)))
          pv := !cycle && (old.pv || (!fault && decide (i = .compp)))
          hv := !cycle && (old.hv || (!fault && decide (i = .comph)))
          ovf := old.ovf || decide (r.rcode = 0x01#8)
          flt := if fault = true ∧ old.flt = 0#8 then r.rcode else old.flt }

/-- R42: the registers a command leaves alone: all but those its row of the access table names. -/
def Obligations.OnlyTheTabledCommandsWrite : Prop :=
  ∀ (i : Instr) (s t : State), exec i s = .next t →
    (t.params = s.params ∧ t.cmds = s.cmds ∧ t.pos = s.pos ∧ t.resetIn = s.resetIn ∧ t.drv = s.drv) ∧
    (i ≠ .srst →
      (i ≠ .caldec → t.ce.cal = s.ce.cal) ∧
      (i ≠ .rawdec → (∀ v, i ≠ .setadcT v) → t.ce.adcT = s.ce.adcT) ∧
      (i ≠ .rawdec → (∀ v, i ≠ .setadcP v) → t.ce.adcP = s.ce.adcP) ∧
      (i ≠ .rawdec → (∀ v, i ≠ .setadcH v) → t.ce.adcH = s.ce.adcH) ∧
      (i ≠ .compt → t.ce.tFine = s.ce.tFine ∧ t.ce.tOut = s.ce.tOut) ∧
      (i ≠ .compp → t.ce.pOut = s.ce.pOut) ∧
      (i ≠ .comph → t.ce.hOut = s.ce.hOut) ∧
      ∀ x, (∀ a d, i = .wrb a d → x ≠ a.toNat) → (i = .caldec → 32 ≤ x) → (i = .rawdec → x < 32 ∨ 40 ≤ x) →
        t.ce.image.read x = s.ce.image.read x)

/-- R25: between two successful `CALDEC`s the store does not change, and a failed one leaves it and `CALV` alone. -/
def Obligations.StoreChangesOnlyByCaldec : Prop :=
  ∀ (i : Instr) (s t : State), exec i s = .next t → i ≠ .srst → (i = .caldec → ¬ completed t) →
    t.ce.cal = s.ce.cal ∧ t.ce.status.calv = s.ce.status.calv

/-! ### The machine -/

/-- The invariant holds after reset. -/
def Obligations.InvariantHoldsAtReset : Prop := MachineInv State.reset

/-- R22, R24, R26, R30, R33, R34, R35, R60: every step of the machine keeps the invariant. -/
def Obligations.EveryStepKeepsTheInvariant : Prop :=
  ∀ s t : State, MachineInv s → step s = .next t → MachineInv t

/-- R37, 93 U17: no step tells apart two states that differ only in values the block does not hold: both go on, answer
the same, and end in states that again differ only so. The values such registers have in the model (assumption 3) are
the model's choice, and this says that nothing rests on them. -/
def Obligations.ValuelessRegistersAreNeverSeen : Prop :=
  ∀ s t : State, Indistinguishable s t →
    ∃ s' t', step s = .next s' ∧ step t = .next t' ∧ Indistinguishable s' t'

/-- R34, R35, R103: while no reset is asserted and the word presented is not `SRST`, no step clears `CALV`, `OVF` or a
recorded fault. -/
def Obligations.OnlyResetClearsTheStickyFields : Prop :=
  ∀ s t : State, step s = .next t → s.resetIn = false → s.cmds.head? ≠ some 0x0F000000#32 →
    (s.ce.status.calv = true → t.ce.status.calv = true) ∧
    (s.ce.status.ovf = true → t.ce.status.ovf = true) ∧
    (s.ce.status.flt ≠ 0#8 → t.ce.status.flt = s.ce.status.flt)

/-- Every state goes on: no command and no word stops the block (R87, R241, 93 U9). That a machine at which nothing
happens (R40 says that it waits), and a host that waits for the transport, also take a step, one that changes nothing,
is the model's choice (assumptions 2 and 8). -/
def Obligations.EveryStepGoesOn : Prop := ∀ s : State, ∃ t, step s = .next t

/-- R260: the hardware reset leaves the block as reset and `SRST` do, in everything that holds a value, and gives no
response. That a command waiting at the port is gone and the input released is the model's choice (assumption 7). -/
def Obligations.HardwareResetGivesTheResetState : Prop :=
  ∀ s : State, s.resetIn = true → ∃ b : Block,
    step s = .next { s with ce := b, cmds := s.cmds.tail, resp := none, resetIn := false } ∧
    SameVisible b State.reset.ce ∧ b.status.toWord = 0#32 ∧ (∀ a, b.image.read a = none) ∧
    ∃ t, exec .srst s = .next t ∧ SameVisible b t.ce

/-- R8, R191: no step changes a parameter. -/
def Obligations.ParametersNeverChange : Prop := ∀ s t : State, step s = .next t → t.params = s.params

/-! ### The host agent -/

/-- The state is the host agent's to move: no reset asserted and no command at the port. -/
def Sys2Proof.Claims.hostMoves (s : State) : Prop := s.resetIn = false ∧ s.cmds = []

/-- `s` after one transport call that delivered `rx`, with `more` still to come. -/
def Sys2Proof.Claims.transferred (s : State) (line : Line) (sent : List Byte) (n : Nat) (more : List (List Byte)) :
    State :=
  { s with drv := { s.drv with inbox := more, bus := ⟨line, sent, n⟩ :: s.drv.bus } }

/-- `s` with the host's current call ended. -/
def Sys2Proof.Claims.ended (s : State) (r : CallResult) : State :=
  { s with drv := { s.drv with proc := .idle, result := some r } }

/-- `s` with the host at another point of its procedure. -/
def Sys2Proof.Claims.atProc (s : State) (p : Proc) : State := { s with drv := { s.drv with proc := p } }

/-- R40: with nothing presented and the application asking nothing, the machine stays as it is (assumption 2). -/
def Obligations.NothingHappensUnasked : Prop :=
  ∀ s : State, hostMoves s → s.drv.proc = .idle → s.drv.calls = [] → step s = .next s

/-- R193: `read(register, count)`: unselected, it fails `NotInitialized`; above `MAX_FRAME` it fails `InvalidLength`; both
without a transport call; else one transfer of `count + 1` bytes, headed by the register with its high bit set, gives
the bytes after the echoed header, `max(n - 1, 0)` of them for `n` bytes moved. -/
def Obligations.HostReadFollowsItsSteps : Prop :=
  ∀ (s : State) (register : Byte) (count : Nat) (rest : List Call), hostMoves s → s.drv.proc = .idle →
    s.drv.calls = .read register count :: rest →
    let s' := { s with drv := { s.drv with calls := rest } }
    (s.drv.line = none → step s = .next (ended s' (.failed .notInitialized))) ∧
    ∀ line, s.drv.line = some line →
      (s.params.maxFrame < count → step s = .next (ended s' (.failed .invalidLength))) ∧
      ∀ rx more, count ≤ s.params.maxFrame → s.drv.inbox = rx :: more →
        step s = .next (ended (transferred s' line [register ||| 0x80#8] (count + 1) more)
          (.bytes ((rx.take (count + 1)).drop 1))) ∧
        ((rx.take (count + 1)).drop 1).length = (rx.take (count + 1)).length - 1

/-- R194: `write(register, data)`: the same guards with `BUF_SIZE`; else one transfer of the address and data pairs, and
all bytes count as written when the whole frame was moved, fewer when it was not (93 U7), none when nothing was. The count
between is a free value (assumption 12), so nothing else is said of it. -/
def Obligations.HostWriteFollowsItsSteps : Prop :=
  ∀ (s : State) (register : Byte) (data : List Byte) (rest : List Call), hostMoves s → s.drv.proc = .idle →
    s.drv.calls = .write register data :: rest →
    let s' := { s with drv := { s.drv with calls := rest } }
    (s.drv.line = none → step s = .next (ended s' (.failed .notInitialized))) ∧
    ∀ line, s.drv.line = some line →
      (s.params.bufSize < data.length → step s = .next (ended s' (.failed .invalidLength))) ∧
      ∀ rx more, data.length ≤ s.params.bufSize → s.drv.inbox = rx :: more →
        ∃ frame n, frame.length = 2 * data.length ∧
          (∀ i (h : i < data.length),
            frame[2 * i]? = some ((register + BitVec.ofNat 8 i) &&& 0x7F#8) ∧ frame[2 * i + 1]? = some data[i]) ∧
          n ≤ data.length ∧ (2 * data.length ≤ rx.length → n = data.length) ∧
          (rx.length < 2 * data.length → n < data.length) ∧ (rx = [] → n = 0) ∧
          step s = .next (ended (transferred s' line frame (2 * data.length) more) (.written n))

/-- R200, R201, R202: `init` selects a legal line and reads the identification, or fails `InvalidArgument` with no
transport call and no command; any other identification, or a short read, fails `DeviceNotFound` and issues `SRST` and
nothing else. -/
def Obligations.InitChecksTheIdentification : Prop :=
  (∀ (s : State) (sel : Nat) (rest : List Call), hostMoves s → s.drv.proc = .idle →
    s.drv.calls = .init sel :: rest →
    let s' := { s with drv := { s.drv with calls := rest } }
    (2 ≤ sel → step s = .next (ended s' (.failed .invalidArgument))) ∧
    (sel = 0 → step s = .next ({ s' with drv := { s'.drv with line := some .line0, proc := .initId } })) ∧
    (sel = 1 → step s = .next ({ s' with drv := { s'.drv with line := some .line1, proc := .initId } }))) ∧
  ∀ (s : State) (line : Line) (rx : List Byte) (more : List (List Byte)), hostMoves s → s.drv.proc = .initId →
    s.drv.line = some line → s.drv.inbox = rx :: more → 1 ≤ s.params.maxFrame →
    let t := transferred s line [s.params.addrId ||| 0x80#8] 2 more
    ((rx.take 2).drop 1 = [s.params.chipId] → step s = .next (atProc t .initCalTp)) ∧
    ((rx.take 2).drop 1 ≠ [s.params.chipId] →
      step s = .next (ended { t with cmds := [0x0F000000#32] } (.failed .deviceNotFound)))

/-- R203, R204: complete reads of 24, 1 and 7 bytes become `WRB` commands to image bytes 0..23, 24 and 25..31 in
ascending order and then `CALDEC`; a short read fails `CalibrationReadError` and issues `SRST`. -/
def Obligations.InitLoadsTheImage : Prop :=
  ∀ (s : State) (line : Line) (rx : List Byte) (more : List (List Byte)), hostMoves s → s.drv.line = some line →
    s.drv.inbox = rx :: more → 24 ≤ s.params.maxFrame →
    (s.drv.proc = .initCalTp →
      let t := transferred s line [s.params.addrCalTp ||| 0x80#8] 25 more
      (25 ≤ rx.length → ∃ ws : List Word, step s = .next (atProc { t with cmds := ws } .initCalH1) ∧
        ws.length = 24 ∧ ∀ i (h : i + 1 < rx.length), i < 24 →
          ws[i]? = some (encode (.wrb (BitVec.ofNat 8 i) rx[i + 1]))) ∧
      (rx.length < 25 →
        step s = .next (ended { t with cmds := [0x0F000000#32] } (.failed .calibrationReadError)))) ∧
    (s.drv.proc = .initCalH1 →
      let t := transferred s line [s.params.addrCalH1 ||| 0x80#8] 2 more
      (∀ (h : 1 < rx.length), step s = .next (atProc t (.initCalH2 rx[1]))) ∧
      (rx.length < 2 →
        step s = .next (ended { t with cmds := [0x0F000000#32] } (.failed .calibrationReadError)))) ∧
    ∀ h1, s.drv.proc = .initCalH2 h1 →
      let t := transferred s line [s.params.addrCalH2 ||| 0x80#8] 8 more
      (8 ≤ rx.length → ∃ ws : List Word, step s = .next (atProc { t with cmds := ws } .initCtrl) ∧
        ws.length = 9 ∧ ws[0]? = some (encode (.wrb 24#8 h1)) ∧ ws[8]? = some 0x03000000#32 ∧
        ∀ i (h : i + 1 < rx.length), i < 7 → ws[i + 1]? = some (encode (.wrb (BitVec.ofNat 8 (25 + i)) rx[i + 1]))) ∧
      (rx.length < 8 →
        step s = .next (ended { t with cmds := [0x0F000000#32] } (.failed .calibrationReadError)))

/-- R262, R205: once `CALDEC` has answered `OK` the control byte is written as one address and data pair; moved whole,
`init` succeeds; moved in part or not at all it fails `ConfigWriteError` and issues `SRST`. Without that `OK` nothing is written,
`init` fails and issues `SRST`; the error's name is the model's choice (assumption 11). -/
def Obligations.InitWritesTheControlByte : Prop :=
  (∀ s : State, hostMoves s → s.drv.proc = .initCtrl → (∀ v, s.resp ≠ some ⟨0x00#8, v⟩) →
    step s = .next (ended { s with cmds := [0x0F000000#32] } (.failed .blockFailed))) ∧
  ∀ (s : State) (line : Line) (rx : List Byte) (more : List (List Byte)) (v : Word), hostMoves s →
    s.drv.proc = .initCtrl → s.resp = some ⟨0x00#8, v⟩ → s.drv.line = some line → s.drv.inbox = rx :: more →
    1 ≤ s.params.bufSize →
    let t := transferred s line [s.params.addrCtrl &&& 0x7F#8, s.params.ctrlByte] 2 more
    (2 ≤ rx.length → step s = .next (ended t .done)) ∧
    (rx.length < 2 → step s = .next (ended { t with cmds := [0x0F000000#32] } (.failed .configWriteError)))

/-- R210: the status is polled until its measuring bit is clear; a read of other than one byte fails `IoError`; a finite
`POLL_MAX` ends the polling after that many polls. -/
def Obligations.SensorsArePolledUntilReady : Prop :=
  ∀ (s : State) (polls : Nat), hostMoves s → s.drv.proc = .poll polls →
    (∀ m, s.params.pollMax = some m → m ≤ polls → step s = .next (ended s (.failed .pollTimeout))) ∧
    ∀ (line : Line) (rx : List Byte) (more : List (List Byte)), s.drv.line = some line → s.drv.inbox = rx :: more →
      (∀ m, s.params.pollMax = some m → polls < m) → 1 ≤ s.params.maxFrame →
      let t := transferred s line [s.params.addrStatus ||| 0x80#8] 2 more
      (rx.length < 2 → step s = .next (ended t (.failed .ioError))) ∧
      ∀ h : 1 < rx.length,
        (rx[1].getLsbD s.params.measuringBit = true → step s = .next (atProc t (.poll (polls + 1)))) ∧
        (rx[1].getLsbD s.params.measuringBit = false → step s = .next (atProc t (.burst 0)))

/-- R211, R212, R214: a burst of eight bytes becomes `WRB 32..39`, `RAWDEC` and `COMPT`; a short one is tried again
after the delay, `RETRIES` times at most; then the call fails `AcquisitionExhausted` with no command issued. -/
def Obligations.BurstIsRetriedThenExhausted : Prop :=
  ∀ (s : State) (failed : Nat) (line : Line) (rx : List Byte) (more : List (List Byte)), hostMoves s →
    s.drv.proc = .burst failed → s.drv.line = some line → s.drv.inbox = rx :: more → 8 ≤ s.params.maxFrame →
    let t := transferred s line [s.params.addrData ||| 0x80#8] 9 more
    (9 ≤ rx.length → ∃ ws : List Word, step s = .next (atProc { t with cmds := ws } .awaitT) ∧ ws.length = 10 ∧
      ws[8]? = some 0x04000000#32 ∧ ws[9]? = some 0x06000000#32 ∧
      ∀ i (h : i + 1 < rx.length), i < 8 → ws[i]? = some (encode (.wrb (BitVec.ofNat 8 (32 + i)) rx[i + 1]))) ∧
    (rx.length < 9 → failed < s.params.retries →
      step s = .next (atProc
        { t with drv := { t.drv with waited := t.drv.waited + s.params.retryDelay } } (.burst (failed + 1)))) ∧
    (rx.length < 9 → s.params.retries ≤ failed → step s = .next (ended t (.failed .acquisitionExhausted)))

/-- R213, R215: after each completed compensation the next is issued in the fixed order, and the third gives the reading:
the three results and their conversions, divided by 100, 256 and 1024. What a fault in between does is the model's
choice (assumption 11). -/
def Obligations.CompensationsFollowInOrder : Prop :=
  ∀ (s : State) (code : BitVec 8) (v : Word), hostMoves s → s.resp = some ⟨code, v⟩ → code.toNat < 16 →
    (s.drv.proc = .awaitT → step s = .next (atProc { s with cmds := [0x07000000#32] } (.awaitP v))) ∧
    (∀ t, s.drv.proc = .awaitP t → step s = .next (atProc { s with cmds := [0x08000000#32] } (.awaitH t v))) ∧
    ∀ t p, s.drv.proc = .awaitH t p →
      let fmt := s.params.floatFmt
      step s = .next (ended s (.reading
        { tOut := t, pOut := p, hOut := v
          temperatureC := (fdiv fmt (cvt fmt t.toInt) (cvt fmt 100)).pattern fmt
          pressurePa := (fdiv fmt (cvt fmt p.toNat) (cvt fmt 256)).pattern fmt
          humidityPct := (fdiv fmt (cvt fmt v.toNat) (cvt fmt 1024)).pattern fmt }))

/-- From R216: in binary32 the division of an integer below `2^24` by 256 or by 1024 is exact, so every humidity is, and
every pressure with `P_OUT < 2^24`. -/
def Obligations.PowerOfTwoDivisionsAreExact : Prop :=
  ∀ n : Nat, n < 2 ^ 24 →
    let p := fdiv .binary32 (cvt .binary32 n) (cvt .binary32 256)
    let h := fdiv .binary32 (cvt .binary32 n) (cvt .binary32 1024)
    p.neg = false ∧ (p.mant : ℚ) * 2 ^ p.exp = n / 256 ∧ h.neg = false ∧ (h.mant : ℚ) * 2 ^ h.exp = n / 1024

/-! ### Good runs -/

/-- R278: once the run of the host's command list has ended, no step but a hardware reset runs a command or changes the
block: the state of the block there is the final one. A state is good for the registers a claim reads (results, raw
codes, coefficients, image bytes) exactly when no fault has been recorded and the command that reads each of them
completes; and reading them keeps it good. -/
def Obligations.EndedRunsAndGoodStates : Prop :=
  (∀ s t : State, runEnded s → s.resetIn = false → step s = .next t →
    runEnded t ∧ t.ce = s.ce ∧ t.resp = s.resp ∧ t.pos = s.pos) ∧
  ∀ (s : State) (reads : List Register),
    (good s reads ↔ s.ce.status.flt = 0#8 ∧ ∀ r ∈ reads, ∃ t, exec r.readCommand s = .next t ∧ completed t) ∧
    (good s reads → ∀ r ∈ reads, ∃ t, exec r.readCommand s = .next t ∧ good t reads)
end

