-- ==== Sys2Proof/Laws/Memory.lean ====
section
/-!
SUPPORT. The image buffer: what a read gives after a write or after a region is consumed, and that every operation
keeps the canonical form (20_memory R60 to R63).
-/

namespace Sys2Proof.Machine

@[simp] theorem Memory.read_nil (a : Nat) : Memory.read [] a = none := rfl

theorem Memory.read_cons (c : Host.Cell) (m : Memory) (a : Nat) :
    Memory.read (c :: m) a = if c.1 = a then some c.2 else Memory.read m a := rfl

theorem Memory.read_write (m : Memory) (a : Nat) (v : Byte) (x : Nat) :
    (m.write a v).read x = if x = a then some v else m.read x := by
  induction m with
  | nil => simp [Memory.write, Memory.read_cons, eq_comm]
  | cons c m ih =>
    obtain ⟨k, u⟩ := c
    simp only [Memory.write]
    split
    · simp only [Memory.read_cons]; split <;> simp_all [eq_comm]
    · split
      · subst_vars; simp only [Memory.read_cons]; split <;> simp_all [eq_comm]
      · simp only [Memory.read_cons, ih]; split <;> simp_all [eq_comm]

@[simp] theorem Memory.read_write_same (m : Memory) (a : Nat) (v : Byte) : (m.write a v).read a = some v := by
  simp [Memory.read_write]

theorem Memory.read_write_of_ne (m : Memory) {a x : Nat} (v : Byte) (h : x ≠ a) :
    (m.write a v).read x = m.read x := by
  simp [Memory.read_write, h]

theorem Memory.consume_cons (c : Host.Cell) (m : Memory) (lo hi : Nat) :
    Memory.consume (c :: m) lo hi = if c.1 < lo ∨ hi ≤ c.1 then c :: Memory.consume m lo hi else Memory.consume m lo hi := by
  simp [Memory.consume, List.filter_cons]

theorem Memory.read_consume (m : Memory) (lo hi x : Nat) :
    (m.consume lo hi).read x = if lo ≤ x ∧ x < hi then none else m.read x := by
  induction m with
  | nil => simp [Memory.consume]
  | cons c m ih =>
    rw [Memory.consume_cons]
    by_cases hx : c.1 = x
    · by_cases hk : c.1 < lo ∨ hi ≤ c.1
      · rw [if_pos hk, Memory.read_cons, if_pos hx, if_neg (by omega), Memory.read_cons, if_pos hx]
      · rw [if_neg hk, ih, if_pos (by omega), if_pos (by omega)]
    · by_cases hk : c.1 < lo ∨ hi ≤ c.1
      · rw [if_pos hk, Memory.read_cons, if_neg hx, ih, Memory.read_cons, if_neg hx]
      · rw [if_neg hk, ih, Memory.read_cons, if_neg hx]

theorem Memory.read_none_of_lt {m : Memory} {a : Nat} (h : ∀ c ∈ m, a < c.1) : m.read a = none := by
  induction m with
  | nil => rfl
  | cons c m ih =>
    have hc := h c (by simp)
    rw [Memory.read_cons, if_neg (by omega), ih fun d hd => h d (by simp [hd])]

theorem Memory.mem_write {m : Memory} {a : Nat} {v : Byte} {c : Host.Cell} (h : c ∈ m.write a v) :
    c = (a, v) ∨ c ∈ m := by
  induction m with
  | nil => simpa [Memory.write] using h
  | cons d m ih =>
    obtain ⟨k, u⟩ := d
    simp only [Memory.write] at h
    split at h
    · simpa using h
    · split at h
      · simp only [List.mem_cons] at h ⊢; tauto
      · simp only [List.mem_cons] at h ⊢
        rcases h with h | h
        · exact .inr (.inl h)
        · rcases ih h with h | h
          · exact .inl h
          · exact .inr (.inr h)

theorem Memory.wf_nil : Memory.wf [] := ⟨.nil, fun _ h => by cases h⟩

theorem Memory.wf_write {m : Memory} (h : m.wf) {a : Nat} (ha : a < 40) (v : Byte) : (m.write a v).wf := by
  refine ⟨?_, fun c hc => ?_⟩
  · have hp := h.1
    clear h
    induction m with
    | nil => simp [Memory.write]
    | cons d m ih =>
      obtain ⟨k, u⟩ := d
      rw [List.pairwise_cons] at hp
      simp only [Memory.write]
      split
      · refine List.pairwise_cons.2 ⟨fun c hc => ?_, List.pairwise_cons.2 hp⟩
        rcases List.mem_cons.1 hc with rfl | hc
        · assumption
        · have := hp.1 c hc; simp only at this ⊢; omega
      · split
        · refine List.pairwise_cons.2 ⟨fun c hc => ?_, hp.2⟩
          have := hp.1 c hc; simp only at this ⊢; omega
        · refine List.pairwise_cons.2 ⟨fun c hc => ?_, ih hp.2⟩
          rcases Memory.mem_write hc with rfl | hc
          · simp only; omega
          · exact hp.1 c hc
  · rcases Memory.mem_write hc with rfl | hc
    · exact ha
    · exact h.2 c hc

theorem Memory.wf_consume {m : Memory} (h : m.wf) (lo hi : Nat) : (m.consume lo hi).wf :=
  ⟨h.1.filter _, fun c hc => h.2 c (List.mem_of_mem_filter hc)⟩

/-- R62, R22: an address is valid exactly when a byte is listed for it. -/
theorem Memory.ibv_iff (m : Memory) (a : Nat) : m.ibv a = true ↔ ∃ v, m.read a = some v := by
  simp [Memory.ibv, Option.isSome_iff_exists]

theorem Memory.allValid_iff (m : Memory) (lo n : Nat) :
    m.allValid lo n = true ↔ ∀ i < n, ∃ v, m.read (lo + i) = some v := by
  simp [Memory.allValid, Memory.ibv_iff]

theorem Memory.byte_of_read {m : Memory} {a : Nat} {v : Byte} (h : m.read a = some v) : m.byte a = v := by
  simp [Memory.byte, h]

theorem Memory.read_of_wf_eq_none {m : Memory} (h : m.wf) {a : Nat} (ha : 40 ≤ a) : m.read a = none := by
  replace h := h.2
  induction m with
  | nil => rfl
  | cons c m ih =>
    have hc := h c (by simp)
    rw [Memory.read_cons, if_neg (by omega), ih fun d hd => h d (by simp [hd])]

/-- Equal memories are equal data: two canonical memories that read the same everywhere are the same list. -/
theorem Memory.ext_of_wf : ∀ {m n : Memory}, m.wf → n.wf → (∀ a, Memory.read m a = Memory.read n a) → m = n := by
  intro m
  induction m with
  | nil =>
    intro n _ _ h
    cases n with
    | nil => rfl
    | cons d n => have := h d.1; simp [Memory.read_cons] at this
  | cons c m ih =>
    intro n hm hn h
    cases n with
    | nil => have := h c.1; simp [Memory.read_cons] at this
    | cons d n =>
      have hmp := List.pairwise_cons.1 hm.1
      have hnp := List.pairwise_cons.1 hn.1
      have hmn : Memory.read m c.1 = none := Memory.read_none_of_lt fun e he => hmp.1 e he
      have hnn : Memory.read n d.1 = none := Memory.read_none_of_lt fun e he => hnp.1 e he
      have hkey : c.1 = d.1 := by
        by_contra hne
        rcases Nat.lt_or_gt_of_ne hne with hlt | hgt
        · have h1 := h c.1
          have h2 : Memory.read n c.1 = none := Memory.read_none_of_lt fun e he => hlt.trans (hnp.1 e he)
          rw [Memory.read_cons, if_pos rfl, Memory.read_cons, if_neg (by omega), h2] at h1
          cases h1
        · have h1 := h d.1
          have h2 : Memory.read m d.1 = none := Memory.read_none_of_lt fun e he => hgt.trans (hmp.1 e he)
          rw [Memory.read_cons, if_neg (by omega), h2, Memory.read_cons, if_pos rfl] at h1
          cases h1
      have hval : c.2 = d.2 := by
        have h1 := h c.1
        rw [Memory.read_cons, if_pos rfl, Memory.read_cons, if_pos hkey.symm] at h1
        exact Option.some.inj h1
      have hcd : c = d := Prod.ext hkey hval
      subst hcd
      refine congrArg _ (ih ⟨hmp.2, fun e he => hm.2 e (by simp [he])⟩ ⟨hnp.2, fun e he => hn.2 e (by simp [he])⟩ fun a => ?_)
      have h1 := h a
      rw [Memory.read_cons, Memory.read_cons] at h1
      by_cases ha : c.1 = a
      · subst ha; rw [hmn, hnn]
      · simpa [ha] using h1

end Sys2Proof.Machine
end

