-- ==== Sys2Proof/Laws/State.lean ====
section
/-!
SUPPORT. What each named update of the state does to each of its fields, and each change of `STATUS` to each flag.
-/

namespace Sys2Proof.Machine

section Updates

variable (s : State)

@[simp] theorem State.respond_params (c : BitVec 8) (v : Word) : (s.respond c v).params = s.params := rfl
@[simp] theorem State.respond_ce (c : BitVec 8) (v : Word) : (s.respond c v).ce = s.ce := rfl
@[simp] theorem State.respond_cmds (c : BitVec 8) (v : Word) : (s.respond c v).cmds = s.cmds := rfl
@[simp] theorem State.respond_pos (c : BitVec 8) (v : Word) : (s.respond c v).pos = s.pos := rfl
@[simp] theorem State.respond_resp (c : BitVec 8) (v : Word) : (s.respond c v).resp = some ⟨c, v⟩ := rfl
@[simp] theorem State.respond_resetIn (c : BitVec 8) (v : Word) : (s.respond c v).resetIn = s.resetIn := rfl
@[simp] theorem State.respond_drv (c : BitVec 8) (v : Word) : (s.respond c v).drv = s.drv := rfl

@[simp] theorem State.raise_params (f : CeFault) : (s.raise f).params = s.params := rfl
@[simp] theorem State.raise_ce (f : CeFault) : (s.raise f).ce = { s.ce with status := s.ce.status.recordFault f.code } := rfl
@[simp] theorem State.raise_cmds (f : CeFault) : (s.raise f).cmds = s.cmds := rfl
@[simp] theorem State.raise_pos (f : CeFault) : (s.raise f).pos = s.pos := rfl
@[simp] theorem State.raise_resp (f : CeFault) : (s.raise f).resp = some ⟨f.code, 0#32⟩ := rfl
@[simp] theorem State.raise_resetIn (f : CeFault) : (s.raise f).resetIn = s.resetIn := rfl
@[simp] theorem State.raise_drv (f : CeFault) : (s.raise f).drv = s.drv := rfl

@[simp] theorem State.complete_params (b : Block) (v : Word) : (s.complete b v).params = s.params := rfl
@[simp] theorem State.complete_ce (b : Block) (v : Word) : (s.complete b v).ce = b := rfl
@[simp] theorem State.complete_cmds (b : Block) (v : Word) : (s.complete b v).cmds = s.cmds := rfl
@[simp] theorem State.complete_pos (b : Block) (v : Word) : (s.complete b v).pos = s.pos := rfl
@[simp] theorem State.complete_resp (b : Block) (v : Word) : (s.complete b v).resp = some ⟨okCode, v⟩ := rfl
@[simp] theorem State.complete_resetIn (b : Block) (v : Word) : (s.complete b v).resetIn = s.resetIn := rfl
@[simp] theorem State.complete_drv (b : Block) (v : Word) : (s.complete b v).drv = s.drv := rfl

@[simp] theorem State.completeComp_params (b : Block) (o : Bool) (v : Word) : (s.completeComp b o v).params = s.params := rfl
@[simp] theorem State.completeComp_ce (b : Block) (o : Bool) (v : Word) : (s.completeComp b o v).ce = { b with status := b.status.recordOvf o } := rfl
@[simp] theorem State.completeComp_cmds (b : Block) (o : Bool) (v : Word) : (s.completeComp b o v).cmds = s.cmds := rfl
@[simp] theorem State.completeComp_pos (b : Block) (o : Bool) (v : Word) : (s.completeComp b o v).pos = s.pos := rfl
@[simp] theorem State.completeComp_resp (b : Block) (o : Bool) (v : Word) : (s.completeComp b o v).resp = some ⟨if o then okOvfCode else okCode, v⟩ := rfl
@[simp] theorem State.completeComp_resetIn (b : Block) (o : Bool) (v : Word) : (s.completeComp b o v).resetIn = s.resetIn := rfl
@[simp] theorem State.completeComp_drv (b : Block) (o : Bool) (v : Word) : (s.completeComp b o v).drv = s.drv := rfl

@[simp] theorem State.hardReset_params : (s.hardReset).params = s.params := rfl
@[simp] theorem State.hardReset_ce : (s.hardReset).ce = Block.reset := rfl
@[simp] theorem State.hardReset_cmds : (s.hardReset).cmds = s.cmds.tail := rfl
@[simp] theorem State.hardReset_pos : (s.hardReset).pos = s.pos := rfl
@[simp] theorem State.hardReset_resp : (s.hardReset).resp = none := rfl
@[simp] theorem State.hardReset_resetIn : (s.hardReset).resetIn = false := rfl
@[simp] theorem State.hardReset_drv : (s.hardReset).drv = s.drv := rfl

@[simp] theorem State.takeCommand_params (rest : List Word) : (s.takeCommand rest).params = s.params := rfl
@[simp] theorem State.takeCommand_ce (rest : List Word) : (s.takeCommand rest).ce = s.ce := rfl
@[simp] theorem State.takeCommand_cmds (rest : List Word) : (s.takeCommand rest).cmds = rest := rfl
@[simp] theorem State.takeCommand_pos (rest : List Word) : (s.takeCommand rest).pos = s.pos + 1 := rfl
@[simp] theorem State.takeCommand_resp (rest : List Word) : (s.takeCommand rest).resp = s.resp := rfl
@[simp] theorem State.takeCommand_resetIn (rest : List Word) : (s.takeCommand rest).resetIn = s.resetIn := rfl
@[simp] theorem State.takeCommand_drv (rest : List Word) : (s.takeCommand rest).drv = s.drv := rfl

@[simp] theorem State.present_params (w : Word) : (s.present w).params = s.params := rfl
@[simp] theorem State.present_ce (w : Word) : (s.present w).ce = s.ce := rfl
@[simp] theorem State.present_cmds (w : Word) : (s.present w).cmds = w :: s.cmds.tail := rfl
@[simp] theorem State.present_pos (w : Word) : (s.present w).pos = s.pos := rfl
@[simp] theorem State.present_resp (w : Word) : (s.present w).resp = s.resp := rfl
@[simp] theorem State.present_resetIn (w : Word) : (s.present w).resetIn = false := rfl
@[simp] theorem State.present_drv (w : Word) : (s.present w).drv = s.drv := rfl

@[simp] theorem State.issue_params (is : List Instr) : (s.issue is).params = s.params := rfl
@[simp] theorem State.issue_ce (is : List Instr) : (s.issue is).ce = s.ce := rfl
@[simp] theorem State.issue_cmds (is : List Instr) : (s.issue is).cmds = s.cmds ++ is.map encode := rfl
@[simp] theorem State.issue_pos (is : List Instr) : (s.issue is).pos = s.pos := rfl
@[simp] theorem State.issue_resp (is : List Instr) : (s.issue is).resp = s.resp := rfl
@[simp] theorem State.issue_resetIn (is : List Instr) : (s.issue is).resetIn = s.resetIn := rfl
@[simp] theorem State.issue_drv (is : List Instr) : (s.issue is).drv = s.drv := rfl

@[simp] theorem State.goto_params (p : Proc) : (s.goto p).params = s.params := rfl
@[simp] theorem State.goto_ce (p : Proc) : (s.goto p).ce = s.ce := rfl
@[simp] theorem State.goto_cmds (p : Proc) : (s.goto p).cmds = s.cmds := rfl
@[simp] theorem State.goto_pos (p : Proc) : (s.goto p).pos = s.pos := rfl
@[simp] theorem State.goto_resp (p : Proc) : (s.goto p).resp = s.resp := rfl
@[simp] theorem State.goto_resetIn (p : Proc) : (s.goto p).resetIn = s.resetIn := rfl
@[simp] theorem State.goto_drv (p : Proc) : (s.goto p).drv = { s.drv with proc := p } := rfl

@[simp] theorem State.endCall_params (r : CallResult) : (s.endCall r).params = s.params := rfl
@[simp] theorem State.endCall_ce (r : CallResult) : (s.endCall r).ce = s.ce := rfl
@[simp] theorem State.endCall_cmds (r : CallResult) : (s.endCall r).cmds = s.cmds := rfl
@[simp] theorem State.endCall_pos (r : CallResult) : (s.endCall r).pos = s.pos := rfl
@[simp] theorem State.endCall_resp (r : CallResult) : (s.endCall r).resp = s.resp := rfl
@[simp] theorem State.endCall_resetIn (r : CallResult) : (s.endCall r).resetIn = s.resetIn := rfl
@[simp] theorem State.endCall_drv (r : CallResult) : (s.endCall r).drv = { s.drv with proc := .idle, result := some r } := rfl

end Updates

section StatusUpdates

variable (st : Status)

@[simp] theorem Status.newCycle_calv : (st.newCycle).calv = st.calv := rfl
@[simp] theorem Status.newCycle_avt : (st.newCycle).avt = st.avt := rfl
@[simp] theorem Status.newCycle_avp : (st.newCycle).avp = st.avp := rfl
@[simp] theorem Status.newCycle_avh : (st.newCycle).avh = st.avh := rfl
@[simp] theorem Status.newCycle_tfv : (st.newCycle).tfv = false := rfl
@[simp] theorem Status.newCycle_pv : (st.newCycle).pv = false := rfl
@[simp] theorem Status.newCycle_hv : (st.newCycle).hv = false := rfl
@[simp] theorem Status.newCycle_ovf : (st.newCycle).ovf = st.ovf := rfl
@[simp] theorem Status.newCycle_flt : (st.newCycle).flt = st.flt := rfl

@[simp] theorem Status.recordFault_calv (c : BitVec 8) : (st.recordFault c).calv = st.calv := rfl
@[simp] theorem Status.recordFault_avt (c : BitVec 8) : (st.recordFault c).avt = st.avt := rfl
@[simp] theorem Status.recordFault_avp (c : BitVec 8) : (st.recordFault c).avp = st.avp := rfl
@[simp] theorem Status.recordFault_avh (c : BitVec 8) : (st.recordFault c).avh = st.avh := rfl
@[simp] theorem Status.recordFault_tfv (c : BitVec 8) : (st.recordFault c).tfv = st.tfv := rfl
@[simp] theorem Status.recordFault_pv (c : BitVec 8) : (st.recordFault c).pv = st.pv := rfl
@[simp] theorem Status.recordFault_hv (c : BitVec 8) : (st.recordFault c).hv = st.hv := rfl
@[simp] theorem Status.recordFault_ovf (c : BitVec 8) : (st.recordFault c).ovf = st.ovf := rfl
@[simp] theorem Status.recordFault_flt (c : BitVec 8) : (st.recordFault c).flt = if st.flt = 0#8 then c else st.flt := rfl

@[simp] theorem Status.recordOvf_calv (o : Bool) : (st.recordOvf o).calv = st.calv := rfl
@[simp] theorem Status.recordOvf_avt (o : Bool) : (st.recordOvf o).avt = st.avt := rfl
@[simp] theorem Status.recordOvf_avp (o : Bool) : (st.recordOvf o).avp = st.avp := rfl
@[simp] theorem Status.recordOvf_avh (o : Bool) : (st.recordOvf o).avh = st.avh := rfl
@[simp] theorem Status.recordOvf_tfv (o : Bool) : (st.recordOvf o).tfv = st.tfv := rfl
@[simp] theorem Status.recordOvf_pv (o : Bool) : (st.recordOvf o).pv = st.pv := rfl
@[simp] theorem Status.recordOvf_hv (o : Bool) : (st.recordOvf o).hv = st.hv := rfl
@[simp] theorem Status.recordOvf_ovf (o : Bool) : (st.recordOvf o).ovf = (st.ovf || o) := rfl
@[simp] theorem Status.recordOvf_flt (o : Bool) : (st.recordOvf o).flt = st.flt := rfl

end StatusUpdates

end Sys2Proof.Machine
end

