-- ==== Sys2Proof/Laws/Exec.lean ====
section
/-!
SUPPORT. What the shared operations and a command can do, said once: a command ends in a fault entry, in a completion,
or in the completion of a compensation, and in each case it touches the block and the response only.
-/

namespace Sys2Proof.Machine

/-- `MemRead` (R62): address, then validity, then the byte. -/
theorem Block.memRead_cases (b : Block) (a : Byte) :
    (40 ≤ a.toNat ∧ b.memRead a = .error .addressFault) ∨
    (a.toNat < 40 ∧ b.image.read a.toNat = none ∧ b.memRead a = .error .imageNotValid) ∨
    (∃ v, a.toNat < 40 ∧ b.image.read a.toNat = some v ∧ b.memRead a = .ok v) := by
  unfold Block.memRead
  by_cases h : 40 ≤ a.toNat
  · simp [h]
  · cases hr : b.image.read a.toNat <;> simp [h] <;> omega

/-- `MemWrite` (R63). -/
theorem Block.memWrite_cases (b : Block) (a v : Byte) :
    (40 ≤ a.toNat ∧ b.memWrite a v = .error .addressFault) ∨
    (a.toNat < 40 ∧ b.memWrite a v = .ok { b with image := b.image.write a.toNat v }) := by
  unfold Block.memWrite
  by_cases h : 40 ≤ a.toNat
  · simp [h]
  · simp [h]; omega

/-- R149: the checks in their order. -/
theorem Status.compCheck_cases (st : Status) (o t : Bool) :
    (st.calv = false ∧ st.compCheck o t = some .calNotValid) ∨
    (st.calv = true ∧ o = false ∧ st.compCheck o t = some .operandNotValid) ∨
    (st.calv = true ∧ o = true ∧ t = false ∧ st.compCheck o t = some .orderViolation) ∨
    (st.calv = true ∧ o = true ∧ t = true ∧ st.compCheck o t = none) := by
  unfold Status.compCheck
  cases st.calv <;> cases o <;> cases t <;> simp

/-- R182: an index has a coefficient exactly when it is at most 17. -/
theorem Calib.read_isSome (c : Calib) (k : Nat) : (c.read k).isSome = decide (k ≤ 17) := by
  by_cases h : k ≤ 17
  · interval_cases k <;> rfl
  · simp only [h, decide_false]
    unfold Calib.read
    split <;> first | omega | rfl

/-- What a command can do: raise a fault, complete with a block and a value, or complete a compensation. -/
theorem exec_cases (i : Instr) (s : State) :
    (∃ f, exec i s = .next (s.raise f)) ∨
    (∃ b v, exec i s = .next (s.complete b v)) ∨
    (∃ b o v, exec i s = .next (s.completeComp b o v)) := by
  cases i with
  | nop => exact .inr (.inl ⟨_, _, rfl⟩)
  | wrb a d =>
    simp only [exec, execWrb]
    rcases s.ce.memWrite_cases a d with ⟨_, h⟩ | ⟨_, h⟩ <;> rw [h]
    · exact .inl ⟨_, rfl⟩
    · exact .inr (.inl ⟨_, _, rfl⟩)
  | rdb a =>
    simp only [exec, execRdb]
    rcases s.ce.memRead_cases a with ⟨_, h⟩ | ⟨_, _, h⟩ | ⟨v, _, _, h⟩ <;> rw [h]
    · exact .inl ⟨_, rfl⟩
    · exact .inl ⟨_, rfl⟩
    · exact .inr (.inl ⟨_, _, rfl⟩)
  | caldec =>
    simp only [exec, execCaldec]
    split
    · exact .inr (.inl ⟨_, _, rfl⟩)
    · exact .inl ⟨_, rfl⟩
  | rawdec =>
    simp only [exec, execRawdec]
    split
    · exact .inr (.inl ⟨_, _, rfl⟩)
    · exact .inl ⟨_, rfl⟩
  | setadcT imm => exact .inr (.inl ⟨_, _, rfl⟩)
  | setadcP imm => exact .inr (.inl ⟨_, _, rfl⟩)
  | setadcH imm => exact .inr (.inl ⟨_, _, rfl⟩)
  | compt =>
    simp only [exec, execCompt]
    split
    · exact .inl ⟨_, rfl⟩
    · exact .inr (.inr ⟨_, _, _, rfl⟩)
  | compp =>
    simp only [exec, execCompp]
    split
    · exact .inl ⟨_, rfl⟩
    · exact .inr (.inr ⟨_, _, _, rfl⟩)
  | comph =>
    simp only [exec, execComph]
    split
    · exact .inl ⟨_, rfl⟩
    · exact .inr (.inr ⟨_, _, _, rfl⟩)
  | rdr sel =>
    simp only [exec, execRdr]
    split
    · exact .inl ⟨_, rfl⟩
    · exact .inr (.inl ⟨_, _, rfl⟩)
  | rdc k =>
    simp only [exec, execRdc]
    split
    · exact .inl ⟨_, rfl⟩
    · split
      · exact .inr (.inl ⟨_, _, rfl⟩)
      · exact .inl ⟨_, rfl⟩
  | srst => exact .inr (.inl ⟨_, _, rfl⟩)

/-- R11, R91: a command goes on, touching the block and giving one response, nothing outside the block. -/
theorem exec_shape (i : Instr) (s : State) : ∃ b r, exec i s = .next { s with ce := b, resp := some r } := by
  rcases exec_cases i s with ⟨_, h⟩ | ⟨_, _, h⟩ | ⟨_, _, _, h⟩ <;> exact ⟨_, _, h⟩

end Sys2Proof.Machine
end

