-- ==== Sys2Proof/Laws/Driver.lean ====
section
/-!
SUPPORT. What one step of the host agent can touch: its own state and the inputs of the block, never the block, the
parameters, the position or the response (00_scope R5: the host is not part of `CE`).
-/

namespace Sys2Proof.Machine

/-- `t` differs from `s` at most in the host agent, the command list and the reset input. -/
def State.SameBlockSide (s t : State) : Prop :=
  t.params = s.params ∧ t.ce = s.ce ∧ t.pos = s.pos ∧ t.resp = s.resp

theorem State.SameBlockSide.refl (s : State) : s.SameBlockSide s := ⟨rfl, rfl, rfl, rfl⟩

theorem State.SameBlockSide.trans {s t u : State} (h : s.SameBlockSide t) (k : t.SameBlockSide u) : s.SameBlockSide u :=
  ⟨k.1.trans h.1, k.2.1.trans h.2.1, k.2.2.1.trans h.2.2.1, k.2.2.2.trans h.2.2.2⟩

theorem State.transfer_done {s t : State} {line : Line} {sent rx : List Byte} {n : Nat}
    (h : s.transfer line sent n = .done rx t) :
    ∃ got rest, s.drv.inbox = got :: rest ∧ rx = got.take n ∧
      t = { s with drv := { s.drv with inbox := rest, bus := ⟨line, sent, n⟩ :: s.drv.bus } } := by
  unfold State.transfer at h
  split at h
  · cases h
  · injection h with h1 h2; exact ⟨_, _, ‹_›, h1.symm, h2.symm⟩

theorem State.hostRead_done {s t : State} {r : Byte} {n : Nat} {data : List Byte}
    (h : s.hostRead r n = .done data t) : s.SameBlockSide t ∧ data.length ≤ n := by
  unfold State.hostRead at h
  split at h
  · cases h
  · split at h
    · cases h
    · split at h
      · cases h
      · cases h
      · injection h with h1 h2
        subst h1 h2
        obtain ⟨got, rest, _, rfl, rfl⟩ := State.transfer_done ‹_›
        refine ⟨⟨rfl, rfl, rfl, rfl⟩, ?_⟩
        simp

theorem State.hostWrite_done {s t : State} {r : Byte} {data : List Byte} {n : Nat}
    (h : s.hostWrite r data = .done n t) : s.SameBlockSide t := by
  unfold State.hostWrite at h
  split at h
  · cases h
  · split at h
    · cases h
    · split at h
      · cases h
      · cases h
      · injection h with h1 h2
        subst h2
        obtain ⟨got, rest, _, _, rfl⟩ := State.transfer_done ‹_›
        exact ⟨rfl, rfl, rfl, rfl⟩

/-- `write` counts all bytes exactly when the whole frame was moved, else fewer; none when nothing was moved. -/
theorem writtenCount_cases (moved count : Nat) :
    (2 * count ≤ moved ∧ writtenCount moved count = count) ∨
    (moved < 2 * count ∧ writtenCount moved count < count ∧ (moved = 0 → writtenCount moved count = 0)) := by
  unfold writtenCount
  split
  · exact .inl ⟨‹_›, rfl⟩
  · refine .inr ⟨by omega, ?_⟩
    split <;> refine ⟨by omega, fun h => ?_⟩
    · rfl
    · contradiction

/-- The host sees `OK` exactly when the last response carries the code `0x00`. -/
theorem State.sawOk_iff (s : State) : s.sawOk = true ↔ ∃ v, s.resp = some ⟨0x00#8, v⟩ := by
  unfold State.sawOk okCode
  rcases s.resp with _ | ⟨c, v⟩ <;> simp

/-- A step of the host agent never touches the block's side. -/
theorem State.driverStep_sameBlockSide (s : State) : s.SameBlockSide s.driverStep := by
  unfold State.driverStep
  split
  · split
    · exact .refl s
    · rename_i c rest _
      unfold State.startCall
      cases c with
      | init sel => dsimp only; split; · exact ⟨rfl, rfl, rfl, rfl⟩
                    split <;> exact ⟨rfl, rfl, rfl, rfl⟩
      | readSensors => exact ⟨rfl, rfl, rfl, rfl⟩
      | read r n =>
        dsimp only; split
        · exact ⟨rfl, rfl, rfl, rfl⟩
        · exact .refl s
        · (have h := (State.hostRead_done ‹_›).1; exact h)
      | write r d =>
        dsimp only; split
        · exact ⟨rfl, rfl, rfl, rfl⟩
        · exact .refl s
        · (have h := State.hostWrite_done ‹_›; exact h)
      | command w => exact ⟨rfl, rfl, rfl, rfl⟩
      | assertReset => exact ⟨rfl, rfl, rfl, rfl⟩
  · unfold State.stepInitId
    split
    · exact ⟨rfl, rfl, rfl, rfl⟩
    · exact .refl s
    · split <;> (have h := (State.hostRead_done ‹_›).1; exact h)
  · unfold State.stepInitCalTp
    split
    · exact ⟨rfl, rfl, rfl, rfl⟩
    · exact .refl s
    · split <;> (have h := (State.hostRead_done ‹_›).1; exact h)
  · unfold State.stepInitCalH1
    split
    · exact ⟨rfl, rfl, rfl, rfl⟩
    · exact .refl s
    · split <;> (have h := (State.hostRead_done ‹_›).1; exact h)
  · unfold State.stepInitCalH2
    split
    · exact ⟨rfl, rfl, rfl, rfl⟩
    · exact .refl s
    · split <;> (have h := (State.hostRead_done ‹_›).1; exact h)
  · unfold State.stepInitCtrl
    split
    · split
      · exact ⟨rfl, rfl, rfl, rfl⟩
      · exact .refl s
      · split <;> (have h := State.hostWrite_done ‹_›; exact h)
    · exact ⟨rfl, rfl, rfl, rfl⟩
  · unfold State.stepPoll
    split
    · exact ⟨rfl, rfl, rfl, rfl⟩
    · split
      · exact ⟨rfl, rfl, rfl, rfl⟩
      · exact .refl s
      · split
        · split <;> (have h := (State.hostRead_done ‹_›).1; exact h)
        · (have h := (State.hostRead_done ‹_›).1; exact h)
  · unfold State.stepBurst
    split
    · exact ⟨rfl, rfl, rfl, rfl⟩
    · exact .refl s
    · split
      · (have h := (State.hostRead_done ‹_›).1; exact h)
      · split <;> (have h := (State.hostRead_done ‹_›).1; exact h)
  all_goals
    unfold State.stepAwait
    split <;> exact ⟨rfl, rfl, rfl, rfl⟩

end Sys2Proof.Machine
end

