-- ==== Sys2Proof/Laws/Flags.lean ====
section
/-!
SUPPORT. The arithmetic laws on values that fit, and the bits of the word `RDR STATUS` reads (10_state R31).
-/

namespace Sys2Proof.Machine

/-- R141: a value inside the signed range of `n` bits is kept. -/
theorem wrap_of_fits {n : Nat} (hn : 0 < n) {e : Int} (lo : -2 ^ (n - 1) ≤ e) (hi : e < 2 ^ (n - 1)) :
    wrap n e = e := by
  have hp : (2 : Int) ^ n = 2 * 2 ^ (n - 1) := by
    obtain ⟨m, rfl⟩ : ∃ m, n = m + 1 := ⟨n - 1, by omega⟩
    rw [Nat.add_sub_cancel, pow_succ, mul_comm]
  have hpos : (0 : Int) < 2 ^ (n - 1) := by positivity
  unfold wrap
  by_cases h : 0 ≤ e
  · rw [Int.emod_eq_of_lt h (by omega), if_pos hi]
  · have : e % 2 ^ n = e + 2 ^ n := by
      rw [← Int.add_emod_right, Int.emod_eq_of_lt (by omega) (by omega)]
    rw [this, if_neg (by omega)]
    omega

/-- R141: no overflow for a value inside the signed range. -/
theorem wraps_of_fits {n : Nat} (hn : 0 < n) {e : Int} (lo : -2 ^ (n - 1) ≤ e) (hi : e < 2 ^ (n - 1)) :
    wraps n e = false := by
  simp [wraps, wrap_of_fits hn lo hi]

/-- R141: a wrapped value lies in the signed range. -/
theorem wrap_mem {n : Nat} (hn : 0 < n) (e : Int) : -2 ^ (n - 1) ≤ wrap n e ∧ wrap n e < 2 ^ (n - 1) := by
  have hp : (2 : Int) ^ n = 2 * 2 ^ (n - 1) := by
    obtain ⟨m, rfl⟩ : ∃ m, n = m + 1 := ⟨n - 1, by omega⟩
    rw [Nat.add_sub_cancel, pow_succ, mul_comm]
  have hpos : (0 : Int) < 2 ^ (n - 1) := by positivity
  have h0 := Int.emod_nonneg e (b := 2 ^ n) (by omega)
  have h1 := Int.emod_lt_of_pos e (b := 2 ^ n) (by omega)
  unfold wrap
  split <;> omega

/-- R142: the shift of a value in a range is in the shifted range. -/
theorem asr_mem {v lo hi : Int} (k : Nat) (h : lo ≤ v ∧ v ≤ hi) : lo / 2 ^ k ≤ asr v k ∧ asr v k ≤ hi / 2 ^ k :=
  ⟨Int.ediv_le_ediv (by positivity) h.1, Int.ediv_le_ediv (by positivity) h.2⟩

/-- R31: the flags by their bit numbers. -/
theorem Status.toWord_getLsbD_flags (s : Status) :
    s.toWord.getLsbD 0 = s.calv ∧ s.toWord.getLsbD 1 = s.avt ∧ s.toWord.getLsbD 2 = s.avp ∧ s.toWord.getLsbD 3 = s.avh ∧
    s.toWord.getLsbD 4 = s.tfv ∧ s.toWord.getLsbD 5 = s.pv ∧ s.toWord.getLsbD 6 = s.hv ∧
    s.toWord.getLsbD 7 = s.ovf := by
  obtain ⟨c, t, p, h, tf, pv, hv, o, f⟩ := s
  simp only [Status.toWord, BitVec.getLsbD_append, BitVec.getLsbD_ofBool]
  refine ⟨?_, ?_, ?_, ?_, ?_, ?_, ?_, ?_⟩ <;> rfl

/-- R31: bits 15:8 are `FLT`. -/
theorem Status.toWord_flt (s : Status) (i : Nat) (h : i < 8) : s.toWord.getLsbD (8 + i) = s.flt.getLsbD i := by
  simp only [Status.toWord, BitVec.getLsbD_append]
  interval_cases i <;> simp

/-- R31: bits 31:16 read as 0. -/
theorem Status.toWord_reserved (s : Status) (i : Nat) (h : 16 ≤ i) : s.toWord.getLsbD i = false := by
  simp only [Status.toWord, BitVec.getLsbD_append]
  split; omega
  split; omega
  split; omega
  split; omega
  split; omega
  split; omega
  split; omega
  split; omega
  split; omega
  simp

end Sys2Proof.Machine
end

