-- ==== Sys2Proof/Laws/PerInstr.lean ====
section
/-!
SUPPORT. Laws said once per instruction. `InTable`: the word of a well-formed command matches its own row of the opcode
table (30_encoding R84), reserved fields and extra condition included.
-/

namespace Sys2Proof.Laws.InTable

/-- The command's word matches the row of R84 that carries the command's mnemonic. -/
def Statement (i : Instr) : Prop :=
  i.wellFormed = true → ∃ row ∈ opcodeRows, row.mnemonic = i.mnemonic ∧ row.isMatch (encode i) = true

theorem nop : Statement .nop := fun _ => by decide

theorem wrb (addr data : Byte) : Statement (.wrb addr data) := fun _ => by
  refine ⟨⟨"WRB", 0x01000000#32, 0xFFFF0000#32⟩, by decide, rfl, ?_⟩
  have h : encode (.wrb addr data) &&& 0xFFFF0000#32 = 0x01000000#32 := by
    apply BitVec.eq_of_getLsbD_eq
    intro i hi
    simp only [encode, BitVec.getLsbD_and, BitVec.getLsbD_append]
    interval_cases i <;> simp
  simp [OpcodeRow.isMatch, h]

theorem rdb (addr : Byte) : Statement (.rdb addr) := fun _ => by
  refine ⟨⟨"RDB", 0x02000000#32, 0xFFFF00FF#32⟩, by decide, rfl, ?_⟩
  have h : encode (.rdb addr) &&& 0xFFFF00FF#32 = 0x02000000#32 := by
    apply BitVec.eq_of_getLsbD_eq
    intro i hi
    simp only [encode, BitVec.getLsbD_and, BitVec.getLsbD_append]
    interval_cases i <;> simp
  simp [OpcodeRow.isMatch, h]

theorem caldec : Statement .caldec := fun _ => by decide

theorem rawdec : Statement .rawdec := fun _ => by decide

theorem setadcT (imm : BitVec 20) : Statement (.setadcT imm) := fun _ => by
  refine ⟨⟨"SETADC_T", 0x05000000#32, 0xFFF00000#32⟩, by decide, rfl, ?_⟩
  have h : encode (.setadcT imm) &&& 0xFFF00000#32 = 0x05000000#32 := by
    apply BitVec.eq_of_getLsbD_eq
    intro i hi
    simp only [encode, BitVec.getLsbD_and, BitVec.getLsbD_append]
    interval_cases i <;> simp
  simp [OpcodeRow.isMatch, h]

theorem setadcP (imm : BitVec 20) : Statement (.setadcP imm) := fun _ => by
  refine ⟨⟨"SETADC_P", 0x05100000#32, 0xFFF00000#32⟩, by decide, rfl, ?_⟩
  have h : encode (.setadcP imm) &&& 0xFFF00000#32 = 0x05100000#32 := by
    apply BitVec.eq_of_getLsbD_eq
    intro i hi
    simp only [encode, BitVec.getLsbD_and, BitVec.getLsbD_append]
    interval_cases i <;> simp
  simp [OpcodeRow.isMatch, h]

theorem setadcH (imm : BitVec 16) : Statement (.setadcH imm) := fun _ => by
  refine ⟨⟨"SETADC_H", 0x05200000#32, 0xFFFF0000#32⟩, by decide, rfl, ?_⟩
  have h : encode (.setadcH imm) &&& 0xFFFF0000#32 = 0x05200000#32 := by
    apply BitVec.eq_of_getLsbD_eq
    intro i hi
    simp only [encode, BitVec.getLsbD_and, BitVec.getLsbD_append]
    interval_cases i <;> simp
  simp [OpcodeRow.isMatch, h]

theorem compt : Statement .compt := fun _ => by decide

theorem compp : Statement .compp := fun _ => by decide

theorem comph : Statement .comph := fun _ => by decide

theorem rdr (sel : RdrSel) : Statement (.rdr sel) := fun _ => by
  cases sel <;> decide

theorem rdc (k : BitVec 5) : Statement (.rdc k) := fun hk => by
  refine ⟨⟨"RDC", 0x0A000000#32, 0xFFFFFFE0#32⟩, by decide, rfl, ?_⟩
  have h : encode (.rdc k) &&& 0xFFFFFFE0#32 = 0x0A000000#32 := by
    apply BitVec.eq_of_getLsbD_eq
    intro i hi
    simp only [encode, BitVec.getLsbD_and, BitVec.getLsbD_append]
    interval_cases i <;> simp
  have hlow : (encode (.rdc k)).extractLsb' 0 5 = k := by
    apply BitVec.eq_of_getLsbD_eq
    intro i hi
    simp only [encode, BitVec.getLsbD_extractLsb', BitVec.getLsbD_append]
    interval_cases i <;> simp
  have hk' : k.toNat ≤ 17 := by simpa [Instr.wellFormed] using hk
  simp [OpcodeRow.isMatch, h, hlow, hk']

theorem srst : Statement .srst := fun _ => by decide

end Sys2Proof.Laws.InTable
end

