-- ==== Sys2Proof/Tests/Slice0.lean ====
section
/-!
SUPPORT. Tests, one step each: the expected values are the spec's own (95_test_vectors, by vector name). Then, for each
statement that has hypotheses, a concrete state and operands that meet them.
-/

namespace Sys2Proof.Tests

open Sys2Proof Sys2Proof.Machine Sys2Proof.Safety Sys2Proof.Config Sys2Proof.Claims

/-! ### Small states -/

/-- The response an outcome leaves. -/
def answer (o : Host.Outcome State Fault Refusal) : Option Response := (nextOf o).bind (·.resp)

/-- The word `RDR STATUS` would read after an outcome. -/
def statusAfter (o : Host.Outcome State Fault Refusal) : Option Word := (nextOf o).map (·.ce.status.toWord)

/-- Image bytes from an address on. -/
def imageAt (base : Nat) (bytes : List Nat) : Memory :=
  bytes.zipIdx.map fun p => (base + p.2, BitVec.ofNat 8 p.1)

/-- Set A's coefficients (95_test_vectors section 2). -/
def setA : Calib :=
  ⟨27504, 26435, -1000, 36477, -10685, 3024, 2855, 140, -7, 15500, -14600, 6000, 75, 365, 0, 301, 50, 30⟩

/-- Set B is set A with another `dig_P7`. -/
def setB : Calib := { setA with digP7 := 15848 }

/-- Set A's image. -/
def imageA : List Nat :=
  [0x70, 0x6B, 0x43, 0x67, 0x18, 0xFC, 0x7D, 0x8E, 0x43, 0xD6, 0xD0, 0x0B, 0x27, 0x0B, 0x8C, 0x00] ++
  [0xF9, 0xFF, 0x8C, 0x3C, 0xF8, 0xC6, 0x70, 0x17, 0x4B, 0x6D, 0x01, 0x00, 0x12, 0x2D, 0x03, 0x1E]

/-- V-D10's burst. -/
def burst10 : List Nat := [0x65, 0x5A, 0xC0, 0x7E, 0xED, 0x00, 0x75, 0x30]

/-- The reset state with this image. -/
def withImage (m : Memory) : State := { State.reset with ce := { Block.reset with image := m } }

/-- Calibrated with `c`, these raw codes, this fine temperature (valid as `tfv` says). -/
def ready (c : Calib) (t p h : Word) (tfv : Bool) (tf : Word) : State :=
  { State.reset with
    ce := { Block.reset with
      cal := c, adcT := t, adcP := p, adcH := h, tFine := tf
      status := { Status.reset with calv := true, avt := true, avp := true, avh := true, tfv := tfv } } }

/-- The reset state with this word at the port. -/
def presenting (w : Word) : State := { State.reset with cmds := [w] }

/-- The host with a line selected at a point of its procedure, the transport about to deliver. -/
def hostAt (p : Proc) (inbox : List (List Byte)) : State :=
  { State.reset with drv := { Driver.reset with line := some .line0, proc := p, inbox := inbox } }

/-- The host about to write the control byte, the last response being this one. -/
def atCtrl (inbox : List (List Byte)) (r : Option Response) : State := { hostAt .initCtrl inbox with resp := r }

/-- The host with a line selected and a call to make. -/
def asking (c : Call) (inbox : List (List Byte)) : State :=
  { State.reset with drv := { Driver.reset with line := some .line0, calls := [c], inbox := inbox } }

/-- Nine bytes: the echoed header and V-D10's burst. -/
def burstRx : List Byte := [0xF7#8, 0x65#8, 0x5A#8, 0xC0#8, 0x7E#8, 0xED#8, 0x00#8, 0x75#8, 0x30#8]

/-- What the host's part of a next state is. -/
def hostAfter (s : State) : Option (Proc × Option CallResult × List Transfer × List Word) :=
  (nextOf (step s)).map fun t => (t.drv.proc, t.drv.result, t.drv.bus, t.cmds)

/-! ### Well-formedness and decoding -/

/-- The one check of WellFormed: an index above 17 is refused, and 17 is not (R84). -/
theorem test_wellFormed_refuses_index_18 :
    (Instr.rdc 18#5).wellFormed = false ∧ (Instr.rdc 31#5).wellFormed = false ∧ (Instr.rdc 17#5).wellFormed = true := by
  decide

theorem test_decode_buffer_words :
    decode 0b00000000_00000000_00000000_00000000#32 = .ok .nop ∧
    decode 0b00000001_0000_0000_00100000_01100101#32 = .ok (.wrb 32#8 0x65#8) ∧
    decode 0x0100FFFF#32 = .ok (.wrb 255#8 0xFF#8) ∧
    decode 0b00000010_0000_0000_00100000_00000000#32 = .ok (.rdb 32#8) ∧
    decode 0x0F000000#32 = .ok .srst := by decide

theorem test_decode_decoder_words :
    decode 0x03000000#32 = .ok .caldec ∧ decode 0x04000000#32 = .ok .rawdec ∧
    decode 0b00000101_0000_01111110111011010000#32 = .ok (.setadcT 519888#20) ∧
    decode 0b00000101_0001_01100101010110101100#32 = .ok (.setadcP 415148#20) ∧
    decode 0b00000101_0010_0000_0111010100110000#32 = .ok (.setadcH 30000#16) := by decide

theorem test_decode_compensation_words :
    decode 0x06000000#32 = .ok .compt ∧ decode 0x07000000#32 = .ok .compp ∧ decode 0x08000000#32 = .ok .comph := by
  decide

theorem test_decode_readout_words :
    decode 0x09000000#32 = .ok (.rdr .tOut) ∧ decode 0x09100000#32 = .ok (.rdr .pOut) ∧
    decode 0x09200000#32 = .ok (.rdr .hOut) ∧ decode 0x09300000#32 = .ok (.rdr .tFine) ∧
    decode 0b00001001_0100_00000000000000000000#32 = .ok (.rdr .status) ∧
    decode 0x09500000#32 = .ok (.rdr .adcT) ∧ decode 0x09600000#32 = .ok (.rdr .adcP) ∧
    decode 0x09700000#32 = .ok (.rdr .adcH) ∧
    decode 0b00001010_0000000000000000000_10001#32 = .ok (.rdc 17#5) := by decide

/-- The illegal words of 95_test_vectors section 3. -/
theorem test_decode_refuses_illegal_words :
    [0x00000001#32, 0x00100000#32, 0x01012065#32, 0x01102065#32, 0x02002001#32, 0x03000001#32, 0x04100000#32,
      0x05300000#32, 0x05F00000#32, 0x05210000#32, 0x06000001#32, 0x07000001#32, 0x08000001#32, 0x09800000#32,
      0x09000001#32, 0x0A000012#32, 0x0A00001F#32, 0x0A000020#32, 0x0A100000#32, 0x0B000000#32, 0x0C000000#32,
      0x0D000000#32, 0x0E000000#32, 0x0F000001#32, 0x10000000#32, 0x80000000#32, 0xFFFFFFFF#32].all
      (fun w => match decode w with | .ok _ => false | .error _ => true) = true := by decide

/-- An illegal word at the port: `(ILLEGAL_COMMAND, 0)` and the first fault recorded (V-F15). -/
theorem test_step_illegal_word :
    answer (step (presenting 0xFFFFFFFF#32)) = some ⟨0x10#8, 0#32⟩ ∧
    statusAfter (step (presenting 0xFFFFFFFF#32)) = some 0x1000#32 := by decide

/-- `withFetchWord` presents the word that the next step runs (V-B2). -/
theorem test_withFetchWord_runs :
    (nextOf (step (State.reset.withFetchWord 32 0x01002065))).map (fun t => (t.ce.image, t.pos, t.cmds)) =
      some ([(32, 0x65#8)], 1, []) := by decide

/-! ### Buffer and control -/

/-- V-B1. -/
theorem test_nop : answer (exec .nop State.reset) = some ⟨0x00#8, 0#32⟩ := by decide

/-- V-B2, V-B7: the byte is stored, and a second store overwrites it. -/
theorem test_wrb_stores :
    (nextOf (exec (.wrb 32#8 0xFF#8) (withImage [(32, 0x65#8)]))).map (·.ce.image) = some [(32, 0xFF#8)] := by decide

/-- V-B6: address 40 does not exist. -/
theorem test_wrb_address_40 :
    answer (exec (.wrb 40#8 0#8) State.reset) = some ⟨0x11#8, 0#32⟩ ∧
    statusAfter (exec (.wrb 40#8 0#8) State.reset) = some 0x1100#32 := by decide

/-- V-B7: `0xFF` reads as 255. -/
theorem test_rdb_zero_extends :
    answer (exec (.rdb 32#8) (withImage [(32, 0xFF#8)])) = some ⟨0x00#8, 0xFF#32⟩ := by decide

/-- V-B4 and V-B5: validity and address faults. -/
theorem test_rdb_faults :
    answer (exec (.rdb 33#8) (withImage [(32, 0x65#8)])) = some ⟨0x12#8, 0#32⟩ ∧
    answer (exec (.rdb 40#8) State.reset) = some ⟨0x11#8, 0#32⟩ := by decide

/-- V-B8. -/
theorem test_srst :
    (nextOf (exec .srst { withImage (imageAt 0 imageA) with resp := some ⟨0x13#8, 0#32⟩ })).map (·.ce) =
      some Block.reset := by decide

/-! ### Decoders -/

/-- V-D1: set A's image decodes to set A and is consumed. -/
theorem test_caldec_set_A :
    (nextOf (exec .caldec (withImage (imageAt 0 imageA)))).map (fun t => (t.ce.cal, t.ce.image, t.ce.status.toWord)) =
      some (setA, [], 1#32) := by decide

/-- V-D8's bytes: the extremes of every type, with and without the 12-bit sign extension (R123). -/
theorem test_decodeCalib_extremes :
    let b := (imageAt 0 ((List.replicate 12 [0x00, 0x80]).flatten ++
      [0x80, 0x00, 0x80, 0x80, 0x80, 0x00, 0x80, 0x80])).byte
    ((List.range 18).map fun k => (decodeCalib true b).read k) =
      ([32768, -32768, -32768, 32768] ++ List.replicate 8 (-32768) ++ [128, -32768, 128, -2048, -2048, -128]).map
        (fun v => some (BitVec.ofInt 32 v)) ∧
    (decodeCalib false b).read 15 = some 2048#32 := by decide

/-- V-D10 and V-D11: the two masks. -/
theorem test_rawdec_masks :
    ([0x4#4, 0xF#4].map fun mask =>
      (nextOf (exec .rawdec
        { withImage (imageAt 32 burst10) with params := { Config.defaults with xlsbMask := mask } })).map
          fun t => (t.ce.adcP, t.ce.adcT, t.ce.adcH, t.ce.image.length)) =
      [some (415140#32, 519888#32, 30000#32, 0), some (415148#32, 519888#32, 30000#32, 0)] := by decide

/-- V-D21: one byte of the burst missing. -/
theorem test_rawdec_part_image :
    answer (exec .rawdec (withImage (imageAt 32 [0x65, 0x5A, 0xC0] ++ imageAt 36 [0xED, 0x00, 0x75, 0x30]))) =
      some ⟨0x12#8, 0#32⟩ := by decide

/-- V-D22, V-D25. -/
theorem test_setadcT :
    statusAfter (exec (.setadcT 519888#20) State.reset) = some 0x2#32 ∧
    (nextOf (exec (.setadcT 0x80000#20) State.reset)).map (·.ce.adcT) = some 524288#32 := by decide

/-- V-D24: from `STATUS = 0x7F` the results are gone. -/
theorem test_setadcP_new_cycle :
    statusAfter (exec (.setadcP 0#20)
      { State.reset with ce := { Block.reset with status := ⟨true, true, true, true, true, true, true, false, 0#8⟩ } }) =
      some 0x0F#32 := by decide

/-- V-D23. -/
theorem test_setadcH :
    (nextOf (exec (.setadcH 65535#16) State.reset)).map (·.ce.adcH) = some 65535#32 := by decide

/-! ### Compensation -/

/-- V-T1 to V-T5 on set A: the fine temperature and the temperature, negative shifts included. -/
theorem test_compt_set_A :
    ([519888#32, 603584#32, 0#32, 1048575#32, 400000#32].map fun adc =>
      (nextOf (exec .compt (ready setA adc 0#32 0#32 false 0#32))).map fun t =>
        (t.ce.tFine.toInt, t.ce.tOut.toInt, t.ce.status.ovf)) =
      [some (128422, 2508, false), some (262276, 5123, false), some (-721301, -14088, false),
        some (960246, 18755, false), some (-64736, -1264, false)] := by decide

/-- V-T8 and V-T9: steps that wrap. -/
theorem test_compt_wraps :
    ([700000#32, 1048575#32].map fun adc =>
      answer (exec .compt (ready { setA with digT1 := 0, digT2 := 32767, digT3 := 0 } adc 0#32 0#32 false 0#32))) =
      [some ⟨0x01#8, 0xFFFFCACF#32⟩, some ⟨0x01#8, 0xFFFFFFFE#32⟩] := by decide

/-- V-P1, V-P4, V-P6, V-P8: the pressure, the sentinel, a negative fine temperature. -/
theorem test_compp_values :
    [answer (exec .compp (ready setA 0#32 415148#32 0#32 true 128422#32)),
      answer (exec .compp (ready setA 0#32 0#32 0#32 true 128422#32)),
      answer (exec .compp (ready { setA with digP1 := 0 } 0#32 415148#32 0#32 true 128422#32)),
      answer (exec .compp (ready setA 0#32 415148#32 0#32 true (BitVec.ofInt 32 (-64736))))] =
      [some ⟨0x00#8, 0x01892D41#32⟩, some ⟨0x00#8, 0x02A48F7F#32⟩, some ⟨0x00#8, 0#32⟩, some ⟨0x00#8, 0x0172C44D#32⟩] := by
  decide

/-- V-P5, V-P7, V-P9: a negative result, a wrapped step, a negative denominator. -/
theorem test_compp_overflows :
    [answer (exec .compp (ready setA 0#32 1048575#32 0#32 true 128422#32)),
      answer (exec .compp (ready { setA with digP1 := 1 } 0#32 415148#32 0#32 true 128422#32)),
      answer (exec .compp (ready
        { setA with
          digP1 := 65535, digP2 := -32768, digP3 := -32768, digP4 := -32768, digP5 := -32768, digP6 := -32768
          digP7 := -32768, digP8 := -32768, digP9 := -32768 } 0#32 0#32 0#32 true 960246#32))] =
      [some ⟨0x01#8, 0xFFE61920#32⟩, some ⟨0x01#8, 0xCDAA0334#32⟩, some ⟨0x01#8, 0xFFC3FC1C#32⟩] := by decide

/-- V-H1, V-H4, V-H5, V-H8, V-H9, V-H10: the humidity and both clamps. -/
theorem test_comph_values :
    [answer (exec .comph (ready setA 0#32 0#32 30000#32 true 128422#32)),
      answer (exec .comph (ready setA 0#32 0#32 0#32 true 128422#32)),
      answer (exec .comph (ready setA 0#32 0#32 65535#32 true 128422#32)),
      answer (exec .comph (ready setA 0#32 0#32 20000#32 true 128422#32)),
      answer (exec .comph (ready setA 0#32 0#32 30000#32 true (BitVec.ofInt 32 (-64736)))),
      answer (exec .comph (ready { setA with digH4 := -5, digH5 := -100, digH6 := -30 } 0#32 0#32 30000#32 true
        128422#32))] =
      [some ⟨0x00#8, 0xEF03#32⟩, some ⟨0x00#8, 0#32⟩, some ⟨0x00#8, 0x19000#32⟩, some ⟨0x00#8, 0xD2A#32⟩,
        some ⟨0x00#8, 0xE71D#32⟩, some ⟨0x00#8, 0x19000#32⟩] := by decide

/-- V-H11, V-H12, V-H13: wrapped steps. -/
theorem test_comph_overflows :
    [answer (exec .comph (ready { setA with digH4 := 4091, digH5 := 3996, digH6 := -30 } 0#32 0#32 30000#32 true
        128422#32)),
      answer (exec .comph (ready
        { setA with digH1 := 255, digH2 := 32767, digH3 := 255, digH4 := 2047, digH5 := 2047, digH6 := 127 } 0#32 0#32
        65535#32 true 960246#32)),
      answer (exec .comph (ready
        { setA with digH1 := 255, digH2 := -32768, digH3 := 255, digH4 := -2048, digH5 := -2048, digH6 := -128 }
        0#32 0#32 65535#32 true 960246#32))] =
      [some ⟨0x01#8, 0x17C8A#32⟩, some ⟨0x01#8, 0#32⟩, some ⟨0x01#8, 0#32⟩] := by decide

/-- V-F1, V-F4, V-F5, V-F6: the order of the checks. -/
theorem test_compensation_check_order :
    let st := fun calv avt avp => { Status.reset with calv := calv, avt := avt, avp := avp }
    let s := fun v => { State.reset with ce := { Block.reset with status := v } }
    [answer (exec .compt State.reset), answer (exec .compt (s (st true false false))),
      answer (exec .compp (s (st true true false))), answer (exec .compp (s (st true true true)))] =
      [some ⟨0x13#8, 0#32⟩, some ⟨0x14#8, 0#32⟩, some ⟨0x14#8, 0#32⟩, some ⟨0x15#8, 0#32⟩] := by decide

/-! ### Read-out -/

/-- V-R3 to V-R6. -/
theorem test_rdr :
    let s := { State.reset with
      ce := { Block.reset with
        adcT := 519888#32, status := { Status.reset with calv := true, avt := true, tfv := true } } }
    [answer (exec (.rdr .status) s), answer (exec (.rdr .adcT) s), answer (exec (.rdr .adcP) s),
      answer (exec (.rdr .pOut) s)] =
      [some ⟨0x00#8, 0x13#32⟩, some ⟨0x00#8, 0x7EED0#32⟩, some ⟨0x14#8, 0#32⟩, some ⟨0x16#8, 0#32⟩] := by decide

/-- V-F14: the first fault is kept. -/
theorem test_first_fault_kept :
    statusAfter (exec (.rdb 40#8)
      { State.reset with ce := { Block.reset with status := { Status.reset with flt := 0x13#8 } } }) =
      some 0x1300#32 := by decide

/-- V-R7 to V-R12. -/
theorem test_rdc :
    ([0#5, 2#5, 3#5, 4#5, 15#5, 17#5].map fun k => answer (exec (.rdc k) (ready setA 0#32 0#32 0#32 false 0#32))) =
      [some ⟨0x00#8, 0x6B70#32⟩, some ⟨0x00#8, 0xFFFFFC18#32⟩, some ⟨0x00#8, 0x8E7D#32⟩, some ⟨0x00#8, 0xFFFFD643#32⟩,
        some ⟨0x00#8, 0x12D#32⟩, some ⟨0x00#8, 0x1E#32⟩] := by decide

/-- V-F9 and V-F10. -/
theorem test_rdc_faults :
    answer (exec (.rdc 0#5) State.reset) = some ⟨0x13#8, 0#32⟩ ∧
    answer (step (presenting 0x0A000012#32)) = some ⟨0x10#8, 0#32⟩ := by decide

/-! ### Source syntax, reset, memory -/

/-- R92 and R93: a source line, and the words of `LDBURST`. -/
theorem test_source_and_pseudo :
    source (.setadcH 30000#16) = "SETADC H, 30000" ∧ source (.rdr .tFine) = "RDR T_FINE" ∧
    (ldburst [0x70#8, 0xAC#8, 0x40#8, 0x93#8, 0x5C#8, 0x00#8, 0x6B#8, 0xAC#8]).map encode =
      [0x01002070#32, 0x010021AC#32, 0x01002240#32, 0x01002393#32, 0x0100245C#32, 0x01002500#32, 0x0100266B#32,
        0x010027AC#32, 0x04000000#32] := by decide

theorem test_reset_memory_wf : State.reset.ce.image.wf := by decide

/-- R260: the hardware reset wins over a command that waits. -/
theorem test_hardware_reset :
    (nextOf (step { presenting 0x01002065#32 with resetIn := true })).map (fun t => (t.ce, t.cmds, t.resp)) =
      some (Block.reset, [], none) := by decide

/-! ### The host agent -/

/-- V-X1: one transfer of nine bytes headed `0xF7`, eight bytes returned. -/
theorem test_host_read :
    hostAfter (asking (.read 0xF7#8 8) [burstRx]) =
      some (.idle, some (.bytes (burstRx.drop 1)), [⟨.line0, [0xF7#8], 9⟩], []) := by decide

/-- V-X2: the bound of `read`. -/
theorem test_host_read_bound :
    hostAfter (asking (.read 0#8 128) [burstRx]) = some (.idle, some (.failed .invalidLength), [], []) ∧
    (hostAfter (asking (.read 0#8 127) [burstRx])).map (·.2.2.1) = some [⟨.line0, [0x80#8], 128⟩] := by decide

/-- V-X3. -/
theorem test_host_not_initialized :
    hostAfter { State.reset with drv := { Driver.reset with calls := [.read 0#8 1] } } =
      some (.idle, some (.failed .notInitialized), [], []) := by decide

/-- V-X4: the frame of a one-byte write. -/
theorem test_host_write :
    hostAfter (asking (.write 0xF4#8 [0x37#8]) [[0x74#8, 0x37#8]]) =
      some (.idle, some (.written 1), [⟨.line0, [0x74#8, 0x37#8], 2⟩], []) := by decide

/-- R205, 93 U7: one of the two bytes moved is not a byte confirmed written. -/
theorem test_init_part_write :
    hostAfter (atCtrl [[0#8]] (some ⟨0x00#8, 0#32⟩)) =
      some (.idle, some (.failed .configWriteError), [⟨.line0, [0x74#8, 0x37#8], 2⟩], [0x0F000000#32]) := by
  simp [hostAfter, atCtrl, hostAt, step, State.advance, State.driverStep, State.stepInitCtrl, State.sawOk, okCode,
    State.hostWrite, State.transfer, writtenCount, State.reset, Driver.reset, Config.defaults, nextOf, State.failInit,
    State.issue, State.endCall, encode, writeFrame]

/-- V-X5: an unknown identification. -/
theorem test_init_wrong_chip :
    hostAfter (hostAt .initId [[0#8, 0x58#8]]) =
      some (.idle, some (.failed .deviceNotFound), [⟨.line0, [0xD0#8], 2⟩], [0x0F000000#32]) := by decide

/-- V-X6: 23 of the 24 trim bytes. -/
theorem test_init_short_trim :
    hostAfter (hostAt .initCalTp [List.replicate 24 0#8]) =
      some (.idle, some (.failed .calibrationReadError), [⟨.line0, [0x88#8], 25⟩], [0x0F000000#32]) := by decide

/-- R262: `CALDEC` answered `OK`, and the control byte is written; a reset came between, and `init` fails. -/
theorem test_init_sees_ok :
    hostAfter (atCtrl [[0#8, 0#8]] (some ⟨0x00#8, 0#32⟩)) =
      some (.idle, some .done, [⟨.line0, [0x74#8, 0x37#8], 2⟩], []) ∧
    hostAfter (atCtrl [[0#8, 0#8]] (some ⟨0x12#8, 0#32⟩)) =
      some (.idle, some (.failed .blockFailed), [], [0x0F000000#32]) := by
  constructor <;> decide

/-- V-X7: the fourth short burst. -/
theorem test_burst_exhausted :
    hostAfter (hostAt (.burst 3) [List.replicate 8 0#8]) =
      some (.idle, some (.failed .acquisitionExhausted), [⟨.line0, [0xF7#8], 9⟩], []) ∧
    (hostAfter (hostAt (.burst 2) [List.replicate 8 0#8])).map (·.1) = some (.burst 3) := by decide

/-- V-X8: no status byte. -/
theorem test_poll_short :
    hostAfter (hostAt (.poll 0) [[]]) = some (.idle, some (.failed .ioError), [⟨.line0, [0xF3#8], 2⟩], []) := by decide

/-- V-X9: still measuring, then ready. -/
theorem test_poll_measuring :
    (hostAfter (hostAt (.poll 0) [[0#8, 0x01#8]])).map (·.1) = some (.poll 1) ∧
    (hostAfter (hostAt (.poll 2) [[0#8, 0x00#8]])).map (·.1) = some (.burst 0) := by decide

/-- V-X10 to V-X12: the bit patterns of the conversions in binary32. -/
theorem test_float_boundary :
    reading .binary32 5123#32 24674867#32 47445#32 =
      ⟨5123#32, 24674867#32, 47445#32, 0x424CEB85#64, 0x47BC411A#64, 0x42395500#64⟩ ∧
    reading .binary32 2508#32 25767233#32 61187#32 =
      ⟨2508#32, 25767233#32, 61187#32, 0x41C8A3D7#64, 0x47C496A0#64, 0x426F0300#64⟩ ∧
    (toUnit .binary32 (-1264) 100).pattern .binary32 = 0xC14A3D71#64 := by decide

/-! ### Witnesses: the hypotheses of each statement are met -/

theorem test_witness_StepRunsThePresentedCommand :
    (presenting 0x01002065#32).resetIn = false ∧ (presenting 0x01002065#32).cmds = 0x01002065#32 :: [] ∧
    decode 0x01002065#32 = .ok (.wrb 32#8 0x65#8) := by decide

/-- One illegal word per group of R88, and the legal ones next to them. -/
theorem test_witness_IllegalWordsAreExactlyTheListed :
    ((presenting 0x0B000000#32).resetIn = false ∧ (presenting 0x0B000000#32).cmds = 0x0B000000#32 :: []) ∧
    illegalWord 0x0B000000#32 ∧ illegalWord 0x10000000#32 ∧ illegalWord 0x03000001#32 ∧ illegalWord 0x01012065#32 ∧
    illegalWord 0x02002001#32 ∧ illegalWord 0x05300000#32 ∧ illegalWord 0x05210000#32 ∧ illegalWord 0x09800000#32 ∧
    illegalWord 0x09000001#32 ∧ illegalWord 0x0A000012#32 ∧ illegalWord 0x0A000020#32 ∧
    ¬ illegalWord 0x0A000011#32 ∧ ¬ illegalWord 0x0F000000#32 ∧ ¬ illegalWord 0x0520FFFF#32 ∧
    ¬ illegalWord 0x09700000#32 := by
  simp only [illegalWord]
  and_intros <;> decide

theorem test_witness_DecodeOfEncodeIsTheCommand :
    (Instr.rdc 17#5).wellFormed = true ∧ (Instr.rdc 18#5).wellFormed = false := by decide

theorem test_witness_EncodeOfDecodeIsTheWord : decode 0x0A000011#32 = .ok (.rdc 17#5) := by decide

theorem test_witness_DecodeFollowsTheOpcodeTable :
    decode 0x0A000011#32 = .ok (.rdc 17#5) ∧
    ∃ row ∈ opcodeRows, row.isMatch 0x0A000011#32 = true ∧ row.isMatch 0x0A000012#32 = false := by
  decide

theorem test_witness_NopAnswersOk :
    (0x00000001#32).toNat < 2 ^ 24 ∧ (0x00000001#32).toNat ≠ 0 ∧ (0x00FFFFFF#32).toNat < 2 ^ 24 := by decide

theorem test_witness_WrbStoresOneByte : (39#8).toNat < 40 ∧ 40 ≤ (40#8).toNat ∧ 40 ≤ (255#8).toNat := by decide

theorem test_witness_RdbReadsOneByte :
    40 ≤ (40#8).toNat ∧
    ((39#8).toNat < 40 ∧ (withImage [(39, 7#8)]).ce.image.read (39#8).toNat = some 7#8) ∧
    ((38#8).toNat < 40 ∧ (withImage [(39, 7#8)]).ce.image.read (38#8).toNat = none) := by decide

theorem test_witness_CaldecLoadsTheCoefficients :
    ∀ a, a < 32 → (withImage (imageAt 0 imageA)).ce.image.read a = some ((imageAt 0 imageA).byte a) := by decide

/-- A sticky field of each kind set, and a command that is not `SRST`. -/
theorem test_witness_SrstGivesTheResetState :
    let s := { State.reset with
      ce := { Block.reset with status := ⟨true, true, true, true, true, true, true, true, 0x13#8⟩ } }
    (∃ t, exec .srst s = .next t) ∧ (∃ t, exec .rawdec s = .next t) ∧ Instr.rawdec ≠ .srst ∧
    s.ce.status.calv = true ∧ s.ce.status.ovf = true ∧ s.ce.status.flt ≠ 0#8 :=
  ⟨⟨_, rfl⟩, ⟨_, rfl⟩, by decide⟩

/-- Also the premises of the fault clauses of `CaldecLoadsTheCoefficients` and `RawdecLoadsTheRawCodes`. -/
theorem test_witness_ImageNotValidIsRaisedByThree :
    (∃ t, exec .caldec State.reset = .next t ∧ t.resp = some ⟨0x12#8, 0#32⟩) ∧
    ((39#8).toNat < 40 ∧ State.reset.ce.image.read (39#8).toNat = none) ∧
    (31 < 32 ∧ (withImage (imageAt 0 (imageA.take 31))).ce.image.read 31 = none) ∧
    (32 ≤ 39 ∧ 39 < 40 ∧ (withImage (imageAt 32 (burst10.take 7))).ce.image.read 39 = none) :=
  ⟨⟨_, rfl, rfl⟩, by decide⟩

theorem test_witness_SetadcLoadsOneRawCode :
    ((0x05300000#32).toNat / 2 ^ 24 = 0x05 ∧ 3 ≤ (0x05300000#32).toNat / 2 ^ 20 % 2 ^ 4) ∧
    ((0x05210000#32).toNat / 2 ^ 24 = 0x05 ∧ (0x05210000#32).toNat / 2 ^ 20 % 2 ^ 4 = 2 ∧
      (0x05210000#32).toNat / 2 ^ 16 % 2 ^ 4 ≠ 0) := by decide

theorem test_witness_RawdecLoadsTheRawCodes :
    ∀ i, i < 8 → (withImage (imageAt 32 burst10)).ce.image.read (32 + i) = some ((imageAt 32 burst10).byte (32 + i)) := by
  decide

/-- Both sides of the sign bit. -/
theorem test_witness_TwelveBitCoefficients : 2048 ≤ (0x800#12).toNat ∧ ¬ 2048 ≤ (0x7FF#12).toNat := by decide

/-- V-D13: 1048564 is reached through `RAWDEC`, and is the largest with the default mask. -/
theorem test_witness_ReachableRawCodes :
    (∃ s t : State, s.params.xlsbMask = 4#4 ∧ exec .rawdec s = .next t ∧ completed t ∧ t.ce.adcT.toNat = 1048564 ∧
      t.ce.adcH.toNat = 65535) ∧
    (1048564 ≤ 1048575 ∧ 1048564 % 16 &&& (15 - (4#4).toNat) = 0) ∧ ¬ (1048575 % 16 &&& (15 - (4#4).toNat) = 0) ∧
    1048575 ≤ 1048575 ∧ 65535 ≤ 65535 :=
  ⟨⟨withImage (imageAt 32 (List.replicate 8 0xFF)), _, rfl, rfl, ⟨_, rfl, by decide⟩, by decide, by decide⟩, by decide⟩

theorem test_witness_RawdecIsThreeSetadcs : (withImage (imageAt 32 burst10)).ce.image.allValid 32 8 = true := by decide

theorem test_witness_WrapIsTheUniqueRepresentative :
    (0 < 32 ∧ (-2 : Int) ^ (32 - 1) ≤ -1427854796 ∧ (-1427854796 : Int) ≤ 2 ^ (32 - 1) - 1 ∧
      (2 : Int) ^ 32 ∣ -1427854796 - 2867112500) := by decide

theorem test_witness_RightShiftIsTheFloor :
    0 < 8 ∧ 8 < 32 ∧ -(2 : Int) ^ (32 - 1) ≤ -3606377 ∧ (-3606377 : Int) < 2 ^ (32 - 1) := by decide

theorem test_witness_DivisionRoundsTowardZero :
    ((-1 : Int) ≠ 0 ∧ -(2 : Int) ^ 63 ≤ -2 ^ 63 ∧ (-2 : Int) ^ 63 < 2 ^ 63 ∧ -(2 : Int) ^ 63 ≤ -1 ∧
      (-1 : Int) < 2 ^ 63) := by decide

theorem test_witness_CompensationChecksInOrder :
    State.reset.ce.status.calv = false ∧
    let st : Status := { Status.reset with calv := true }
    (st.calv = true ∧ st.avt = false ∧ st.avp = false ∧ st.avh = false) ∧
    let st2 := (ready setA 0#32 0#32 0#32 false 0#32).ce.status
    st2.calv = true ∧ st2.avp = true ∧ st2.avh = true ∧ st2.tfv = false := by decide

/-- V-T1, step by step. -/
theorem test_witness_ComptComputesTheTemperature :
    let s := ready setA 519888#32 0#32 0#32 false 0#32
    s.ce.status.calv = true ∧ s.ce.status.avt = true ∧
    (519888 : Int) = s.ce.adcT.toInt ∧ (27504 : Int) = s.ce.cal.digT1.toNat ∧ 26435 = s.ce.cal.digT2.toInt ∧
    -1000 = s.ce.cal.digT3.toInt ∧
    (64986 : Int) = 519888 / 2 ^ 3 ∧ 55008 = wrap 32 (27504 * 2) ∧ 9978 = wrap 32 (64986 - 55008) ∧
    263768430 = wrap 32 (9978 * 26435) ∧ (128793 : Int) = 263768430 / 2 ^ 11 ∧ (32493 : Int) = 519888 / 2 ^ 4 ∧
    4989 = wrap 32 (32493 - 27504) ∧ 24890121 = wrap 32 (4989 * 4989) ∧ (6076 : Int) = 24890121 / 2 ^ 12 ∧
    -6076000 = wrap 32 (6076 * -1000) ∧ (-371 : Int) = -6076000 / 2 ^ 14 ∧ 128422 = wrap 32 (128793 + -371) ∧
    642110 = wrap 32 (128422 * 5) ∧ 642238 = wrap 32 (642110 + 128) ∧ (2508 : Int) = 642238 / 2 ^ 8 ∧
    (false = true ↔ (55008 : Int) ≠ 27504 * 2 ∨ (9978 : Int) ≠ 64986 - 55008 ∨ (263768430 : Int) ≠ 9978 * 26435 ∨
      (4989 : Int) ≠ 32493 - 27504 ∨ (24890121 : Int) ≠ 4989 * 4989 ∨ (-6076000 : Int) ≠ 6076 * -1000 ∨
      (128422 : Int) ≠ 128793 + -371 ∨ (642110 : Int) ≠ 128422 * 5 ∨ (642238 : Int) ≠ 642110 + 128) := by decide

/-- V-P3, up to the denominator. -/
theorem test_witness_PressureDenominator :
    PressureDenominator (ready setB 0#32 461508#32 0#32 true 262276#32).ce 100434818073488 573588321 False :=
  ⟨134276, 18030044176, -126210309232, 18798640, 2463975342080, 2337765032848, 98097053040640, 54522853588224,
    212979896829, -1434739060, -5876691189760, -5663711292931, 135073777062397, 4927086165905055369, by decide⟩

/-- V-P3 whole: the pressure of D0's reference outputs. -/
theorem test_witness_ComppComputesThePressure :
    let s := ready setB 0#32 461508#32 0#32 true 262276#32
    s.ce.status.calv = true ∧ s.ce.status.avp = true ∧ s.ce.status.tfv = true ∧
    PressureDenominator s.ce 100434818073488 573588321 False ∧ (573588321 : Int) ≠ 0 ∧
    PressureQuotient s.ce 100434818073488 573588321 24674867 False ∧
    (false = true ↔ False ∨ False ∨ (24674867 : Int) < 0 ∨ (2 : Int) ^ 32 ≤ 24674867) :=
  ⟨rfl, rfl, rfl, test_witness_PressureDenominator, by decide,
    ⟨587068, 1260718930264064, 1160284112190576, 3625887850595550000, 6321411573, 771656, 4629936000, 3572717894016000,
      106475290, -92292608965800, -176034182, 6427886863, 6251852681, 24421299, 253568, by decide⟩, by decide⟩

/-- V-P6: the denominator is zero. -/
theorem test_witness_PressureSentinel :
    let s := ready { setA with digP1 := 0 } 0#32 415148#32 0#32 true 128422#32
    s.ce.status.calv = true ∧ s.ce.status.avp = true ∧ s.ce.status.tfv = true ∧ s.ce.cal.digP1 = 0#16 ∧
    PressureDenominator s.ce 98104795527812 0 False ∧ (false = true ↔ False) :=
  ⟨rfl, rfl, rfl, rfl,
    ⟨422, 178084, -1246588, 59080, 7743733760, 7742487172, 98097053040640, 538526016, 2103617, -4509070, -18469150720,
      -18467047103, 140719021308225, 0, by decide⟩, by decide⟩

/-- V-H2, step by step. -/
theorem test_witness_ComphComputesTheHumidity :
    let s := ready setA 0#32 0#32 27564#32 true 262276#32
    (s.ce.status.calv = true ∧ s.ce.status.avh = true ∧ s.ce.status.tfv = true) ∧
    (27564 = s.ce.adcH.toInt ∧ (75 : Int) = s.ce.cal.digH1.toNat ∧ 365 = s.ce.cal.digH2.toInt ∧
      (0 : Int) = s.ce.cal.digH3.toNat ∧ 301 = s.ce.cal.digH4.toInt ∧ 50 = s.ce.cal.digH5.toInt ∧
      30 = s.ce.cal.digH6.toInt) ∧
    (185476 = wrap 32 (s.ce.tFine.toInt - 76800) ∧ 451608576 = wrap 32 (27564 * 2 ^ 14) ∧
      315621376 = wrap 32 (301 * 2 ^ 20) ∧ 9273800 = wrap 32 (50 * 185476) ∧
      135987200 = wrap 32 (451608576 - 315621376) ∧ 126713400 = wrap 32 (135987200 - 9273800) ∧
      126729784 = wrap 32 (126713400 + 16384) ∧ (3867 : Int) = 126729784 / 2 ^ 15) ∧
    (5564280 = wrap 32 (185476 * 30) ∧ (5433 : Int) = 5564280 / 2 ^ 10 ∧ 0 = wrap 32 (185476 * 0) ∧
      (0 : Int) = 0 / 2 ^ 11 ∧ 32768 = wrap 32 (0 + 32768) ∧ 178028544 = wrap 32 (5433 * 32768) ∧
      (173856 : Int) = 178028544 / 2 ^ 10 ∧ 2271008 = wrap 32 (173856 + 2097152)) ∧
    (828917920 = wrap 32 (2271008 * 365) ∧ 828926112 = wrap 32 (828917920 + 8192) ∧
      (50593 : Int) = 828926112 / 2 ^ 14 ∧ 195643131 = wrap 32 (3867 * 50593) ∧ (5970 : Int) = 195643131 / 2 ^ 15 ∧
      35640900 = wrap 32 (5970 * 5970) ∧ (278444 : Int) = 35640900 / 2 ^ 7 ∧ 20883300 = wrap 32 (278444 * 75) ∧
      (1305206 : Int) = 20883300 / 2 ^ 4 ∧ 194337925 = wrap 32 (195643131 - 1305206)) ∧
    (194337925 = (if (194337925 : Int) < 0 then (0 : Int) else 194337925) ∧
      194337925 = (if (194337925 : Int) > 419430400 then (419430400 : Int) else 194337925) ∧
      (47445 : Int) = 194337925 / 2 ^ 12) ∧
    s.ce.humidity = ⟨47445, false⟩ := by
  and_intros <;> decide

theorem test_witness_HumidityStaysInRange :
    let s := ready setA 0#32 0#32 65535#32 true 128422#32
    exec .comph s = .next (answered s
        { s.ce with hOut := 102400#32, status := { s.ce.status with hv := true } } 0x00#8 102400#32) ∧
      completed (answered s s.ce 0x00#8 102400#32) :=
  ⟨rfl, _, rfl, by decide⟩

/-- Operands exactly on the bounds. -/
theorem test_witness_SmallTrimsDoNotOverflow :
    let c : Calib := { setA with digT1 := 0, digT2 := -16384, digT3 := 4096 }
    let b := (ready c 741440#32 0#32 0#32 false 0#32).ce
    b.adcT.toNat ≤ 1048575 ∧ -16384 ≤ b.cal.digT2.toInt ∧ b.cal.digT2.toInt ≤ 16384 ∧ -4096 ≤ b.cal.digT3.toInt ∧
    b.cal.digT3.toInt ≤ 4096 ∧ -46340 ≤ ((b.adcT.toNat / 16 : Nat) : Int) - b.cal.digT1.toNat ∧
    ((b.adcT.toNat / 16 : Nat) : Int) - b.cal.digT1.toNat ≤ 46340 := by decide

/-- A whole sample cycle's state: P1's end state (95_test_vectors section 11). -/
def sampled : State :=
  { State.reset with
    ce := { Block.reset with
      cal := setB, adcT := 603584#32, adcP := 461508#32, adcH := 27564#32, tFine := 262276#32, tOut := 5123#32
      pOut := 24674867#32, hOut := 47445#32
      status := ⟨true, true, true, true, true, true, true, false, 0#8⟩ } }

/-- It meets the invariant, with every result valid and no overflow recorded. -/
theorem test_witness_invariant_with_results :
    MachineInv sampled ∧ sampled.ce.status.tfv = true ∧ sampled.ce.status.pv = true ∧ sampled.ce.status.hv = true ∧
    sampled.ce.status.ovf = false := by
  refine ⟨⟨?_, fun r h => nomatch h⟩, rfl, rfl, rfl, rfl⟩
  constructor
  case h4 => unfold twelveBit; decide
  case h5 => unfold twelveBit; decide
  all_goals decide

theorem test_witness_TemperatureExactWithoutOverflow :
    MachineInv sampled ∧ sampled.ce.status.tfv = true ∧ sampled.ce.status.ovf = false :=
  ⟨test_witness_invariant_with_results.1, rfl, rfl⟩

theorem test_witness_HumidityExactWithoutOverflow :
    MachineInv sampled ∧ sampled.ce.status.hv = true ∧ sampled.ce.status.ovf = false :=
  ⟨test_witness_invariant_with_results.1, rfl, rfl⟩

theorem test_witness_PressureExactWithoutOverflow :
    MachineInv sampled ∧ sampled.ce.status.pv = true ∧ sampled.ce.status.ovf = false :=
  ⟨test_witness_invariant_with_results.1, rfl, rfl⟩

theorem test_witness_RepeatedCompensationIsIdempotent :
    ∃ t, exec .compp sampled = .next t ∧ completed t := ⟨_, rfl, _, rfl, by decide⟩

/-- Each of the five loads completes somewhere, and `CALV`, `AVP` and `AVH` can be set with `TFV` 0. -/
theorem test_witness_NewSampleCycleNeedsCompt :
    (∃ t, exec (.setadcT 0#20) sampled = .next t ∧ completed t) ∧
    (∃ t, exec (.setadcP 0#20) sampled = .next t ∧ completed t) ∧
    (∃ t, exec (.setadcH 0#16) sampled = .next t ∧ completed t) ∧
    (∃ t, exec .rawdec (withImage (imageAt 32 burst10)) = .next t ∧ completed t) ∧
    (∃ t, exec .caldec (withImage (imageAt 0 imageA)) = .next t ∧ completed t) ∧
    (let s := ready setA 0#32 0#32 0#32 false 0#32;
      (∃ t, exec .nop s = .next t) ∧ Instr.nop ≠ .compt ∧ s.ce.status.tfv = false ∧ s.ce.status.calv = true ∧
        s.ce.status.avp = true ∧ s.ce.status.avh = true) :=
  ⟨⟨_, rfl, _, rfl, by decide⟩, ⟨_, rfl, _, rfl, by decide⟩, ⟨_, rfl, _, rfl, by decide⟩, ⟨_, rfl, _, rfl, by decide⟩,
    ⟨_, rfl, _, rfl, by decide⟩, ⟨_, rfl⟩, by decide⟩

theorem test_witness_RdrReadsTheSelectedRegister :
    let a := sampled.ce.status
    let z := State.reset.ce.status
    (a.tfv = true ∧ a.pv = true ∧ a.hv = true ∧ a.avt = true ∧ a.avp = true ∧ a.avh = true) ∧
    (z.tfv = false ∧ z.pv = false ∧ z.hv = false ∧ z.avt = false ∧ z.avp = false ∧ z.avh = false) ∧
    ((0x09800000#32).toNat / 2 ^ 24 = 0x09 ∧ 8 ≤ (0x09800000#32).toNat / 2 ^ 20 % 2 ^ 4) ∧
    ((0x09000001#32).toNat / 2 ^ 24 = 0x09 ∧ (0x09000001#32).toNat % 2 ^ 20 ≠ 0) := by decide

theorem test_witness_RdcReadsTheCoefficient :
    ((17#5).toNat ≤ 17 ∧ sampled.ce.status.calv = true) ∧ ((17#5).toNat ≤ 17 ∧ State.reset.ce.status.calv = false) ∧
    18 ≤ (18#5).toNat ∧ 18 ≤ (31#5).toNat ∧
    ((0x0A000020#32).toNat / 2 ^ 24 = 0x0A ∧ (0x0A000020#32).toNat / 2 ^ 5 % 2 ^ 19 ≠ 0) := by decide

/-- A read that completes and one that faults. -/
theorem test_witness_ReadOutsChangeOnlyFlt :
    (∃ t, exec (.rdr .pOut) sampled = .next t ∧ completed t) ∧ ∃ t, exec (.rdr .pOut) State.reset = .next t :=
  ⟨⟨_, rfl, _, rfl, by decide⟩, _, rfl⟩

theorem test_witness_FaultsArePrecise :
    ∃ t r, exec .comph State.reset = .next t ∧ t.resp = some r ∧ isFaultCode r.rcode = true :=
  ⟨_, _, rfl, rfl, by decide⟩

theorem test_witness_EveryCommandAnswers : ∃ t, exec (.rdb 32#8) (withImage [(32, 1#8)]) = .next t := ⟨_, rfl⟩

theorem test_witness_CommandsCompleteExactlyWhenPrepared :
    (Instr.rdc 17#5).wellFormed = true ∧ precondition .comph sampled ∧ ¬ precondition .comph State.reset := by
  refine ⟨rfl, ⟨rfl, rfl, rfl⟩, fun h => ?_⟩
  exact absurd h.1 (by decide)

theorem test_witness_FlagsChangeAsTabled :
    { sampled with resetIn := true }.resetIn = true ∧
    ∃ t r, exec .compt (ready { setA with digT1 := 0, digT2 := 32767, digT3 := 0 } 700000#32 0#32 0#32 false 0#32) =
      .next t ∧ t.resp = some r ∧ r.rcode = 0x01#8 := ⟨rfl, _, _, rfl, rfl, rfl⟩

theorem test_witness_OnlyTheTabledCommandsWrite :
    ∃ t, exec (.wrb 39#8 1#8) (withImage [(38, 7#8)]) = .next t ∧ Instr.wrb 39#8 1#8 ≠ .srst ∧ 38 ≠ (39#8).toNat :=
  ⟨_, rfl, by decide, by decide⟩

/-- A `CALDEC` that does not complete, and a command that is none. -/
theorem test_witness_StoreChangesOnlyByCaldec :
    (∃ t, exec .caldec sampled = .next t ∧ Instr.caldec ≠ .srst ∧ ¬ completed t) ∧
    ∃ t, exec .rawdec sampled = .next t ∧ Instr.rawdec ≠ .srst ∧ Instr.rawdec ≠ .caldec := by
  refine ⟨⟨_, rfl, by decide, ?_⟩, _, rfl, by decide, by decide⟩
  rintro ⟨r, hr, h⟩
  injection hr with hr
  subst hr
  exact absurd h (by decide)

theorem test_witness_EveryStepKeepsTheInvariant :
    let s := { sampled with cmds := [0x06000000#32] }
    MachineInv s ∧ ∃ t, step s = .next t :=
  ⟨⟨test_witness_invariant_with_results.1.block, test_witness_invariant_with_results.1.resp⟩, _, rfl⟩

/-- Two states that differ in registers that hold no value. -/
theorem test_witness_ValuelessRegistersAreNeverSeen :
    let t := { State.reset with ce := { Block.reset with adcT := 5#32, tOut := 7#32, cal := setA } }
    Indistinguishable State.reset t ∧ State.reset ≠ t := by
  refine ⟨⟨?_, rfl, rfl, rfl, rfl, rfl, rfl⟩, by decide⟩
  exact ⟨fun _ => rfl, rfl, by decide, by decide, by decide, by decide, by decide, by decide, by decide, by decide⟩

theorem test_witness_OnlyResetClearsTheStickyFields :
    let s := { State.reset with
      ce := { Block.reset with status := ⟨true, true, true, true, true, true, true, true, 0x13#8⟩ }
      cmds := [0x04000000#32] }
    (∃ t, step s = .next t) ∧ s.resetIn = false ∧ s.cmds.head? ≠ some 0x0F000000#32 ∧ s.ce.status.calv = true ∧
    s.ce.status.ovf = true ∧ s.ce.status.flt ≠ 0#8 := ⟨⟨_, rfl⟩, by decide⟩

theorem test_witness_HardwareResetGivesTheResetState : { sampled with resetIn := true }.resetIn = true := by decide

theorem test_witness_ParametersNeverChange : ∃ t, step (presenting 0x01002065#32) = .next t := ⟨_, rfl⟩

theorem test_witness_NothingHappensUnasked :
    hostMoves State.reset ∧ State.reset.drv.proc = .idle ∧ State.reset.drv.calls = [] := ⟨⟨rfl, rfl⟩, rfl, rfl⟩

/-- Unselected; selected on either side of the bound. -/
theorem test_witness_HostReadFollowsItsSteps :
    (let s := { State.reset with drv := { Driver.reset with calls := [.read 1#8 127] } };
      hostMoves s ∧ s.drv.proc = .idle ∧ s.drv.calls = .read 1#8 127 :: [] ∧ s.drv.line = none) ∧
    (let s := asking (.read 1#8 128) [];
      hostMoves s ∧ s.drv.proc = .idle ∧ s.drv.calls = .read 1#8 128 :: [] ∧ s.drv.line = some .line0 ∧
        s.params.maxFrame < 128) ∧
    (let s := asking (.read 1#8 127) [burstRx];
      hostMoves s ∧ s.drv.proc = .idle ∧ s.drv.calls = .read 1#8 127 :: [] ∧ s.drv.line = some .line0 ∧
        127 ≤ s.params.maxFrame ∧ s.drv.inbox = burstRx :: []) :=
  ⟨⟨⟨rfl, rfl⟩, by decide⟩, ⟨⟨rfl, rfl⟩, by decide⟩, ⟨⟨rfl, rfl⟩, by decide⟩⟩

/-- The three cases again, the last with the whole frame moved. -/
theorem test_witness_HostWriteFollowsItsSteps :
    (let s := { State.reset with drv := { Driver.reset with calls := [.write 1#8 [2#8]] } };
      hostMoves s ∧ s.drv.proc = .idle ∧ s.drv.calls = .write 1#8 [2#8] :: [] ∧ s.drv.line = none) ∧
    (let d := List.replicate 129 0#8;
      let s := asking (.write 1#8 d) [];
      hostMoves s ∧ s.drv.proc = .idle ∧ s.drv.calls = .write 1#8 d :: [] ∧ s.drv.line = some .line0 ∧
        s.params.bufSize < d.length) ∧
    (let d := List.replicate 128 0#8;
      let rx := List.replicate 256 0#8;
      let s := asking (.write 1#8 d) [rx];
      hostMoves s ∧ s.drv.proc = .idle ∧ s.drv.calls = .write 1#8 d :: [] ∧ s.drv.line = some .line0 ∧
        d.length ≤ s.params.bufSize ∧ s.drv.inbox = rx :: [] ∧ 2 * d.length ≤ rx.length) := by
  refine ⟨⟨⟨rfl, rfl⟩, by decide⟩, ⟨⟨rfl, rfl⟩, rfl, rfl, rfl, ?_⟩, ⟨⟨rfl, rfl⟩, rfl, rfl, rfl, ?_, rfl, ?_⟩⟩ <;>
    simp [asking, State.reset, Config.defaults]

/-- The last case with the frame moved in part, up to one byte short, and not at all. -/
theorem test_witness_HostWriteMovedInPart :
    ∀ n ∈ [255, 1, 0],
      let d := List.replicate 128 0#8;
      let rx := List.replicate n 0#8;
      let s := asking (.write 1#8 d) [rx];
      hostMoves s ∧ s.drv.proc = .idle ∧ s.drv.calls = .write 1#8 d :: [] ∧ s.drv.line = some .line0 ∧
        d.length ≤ s.params.bufSize ∧ s.drv.inbox = rx :: [] ∧ rx.length < 2 * d.length := by
  intro n hn
  refine ⟨⟨rfl, rfl⟩, rfl, rfl, rfl, ?_, rfl, ?_⟩
  · simp [asking, State.reset, Config.defaults]
  · simp only [List.mem_cons, List.not_mem_nil, or_false] at hn
    simp only [List.length_replicate]
    omega

/-- The three selectors; the identification read, right and wrong. -/
theorem test_witness_InitChecksTheIdentification :
    (∀ n ∈ [0, 1, 2],
      let s := asking (.init n) [];
      hostMoves s ∧ s.drv.proc = .idle ∧ s.drv.calls = .init n :: []) ∧
    ∀ rx ∈ [[0#8, 0x60#8], [0#8, 0x58#8], [0#8]],
      let s := hostAt .initId [rx];
      hostMoves s ∧ s.drv.proc = .initId ∧ s.drv.line = some .line0 ∧ s.drv.inbox = rx :: [] ∧
        1 ≤ s.params.maxFrame := by
  refine ⟨fun n _ => ⟨⟨rfl, rfl⟩, rfl, rfl⟩, fun rx _ => ⟨⟨rfl, rfl⟩, rfl, rfl, rfl, ?_⟩⟩
  change 1 ≤ 127
  decide

/-- Each of the three reads, complete and one byte short. -/
theorem test_witness_InitLoadsTheImage :
    ∀ p ∈ [(Proc.initCalTp, 25), (.initCalTp, 24), (.initCalH1, 2), (.initCalH1, 1), (.initCalH2 0x4B#8, 8),
        (.initCalH2 0x4B#8, 7)],
      let rx := List.replicate p.2 0#8;
      let s := hostAt p.1 [rx];
      hostMoves s ∧ s.drv.line = some .line0 ∧ s.drv.inbox = rx :: [] ∧ 24 ≤ s.params.maxFrame ∧ s.drv.proc = p.1 ∧
        rx.length = p.2 := by
  intro p _
  refine ⟨⟨rfl, rfl⟩, rfl, rfl, ?_, rfl, by simp⟩
  change 24 ≤ 127
  decide

/-- The `OK` of `CALDEC` seen, the frame moved or not; no response; a fault. -/
theorem test_witness_InitWritesTheControlByte :
    (∀ rx ∈ [[0#8, 0#8], [0#8], []],
      let s := atCtrl [rx] (some ⟨0x00#8, 0#32⟩);
      hostMoves s ∧ s.drv.proc = .initCtrl ∧ s.resp = some ⟨0x00#8, 0#32⟩ ∧ s.drv.line = some .line0 ∧
        s.drv.inbox = rx :: [] ∧ 1 ≤ s.params.bufSize) ∧
    ∀ r ∈ [none, some ⟨0x12#8, 0#32⟩],
      let s := atCtrl [] r;
      hostMoves s ∧ s.drv.proc = .initCtrl ∧ ∀ v, s.resp ≠ some ⟨0x00#8, v⟩ := by
  refine ⟨fun rx _ => ⟨⟨rfl, rfl⟩, rfl, rfl, rfl, rfl, ?_⟩, fun r hr => ⟨⟨rfl, rfl⟩, rfl, ?_⟩⟩
  · change 1 ≤ 128
    decide
  · change ∀ v, r ≠ some ⟨0x00#8, v⟩
    simp only [List.mem_cons, List.not_mem_nil, or_false] at hr
    rcases hr with rfl | rfl <;> simp

/-- A finite bound just reached and not yet reached, with the measuring bit set, clear and unread. -/
theorem test_witness_SensorsArePolledUntilReady :
    (let s := { hostAt (.poll 2) [] with params := { Config.defaults with pollMax := some 2 } };
      hostMoves s ∧ s.drv.proc = .poll 2 ∧ s.params.pollMax = some 2 ∧ 2 ≤ 2) ∧
    (∀ rx ∈ [[0#8, 1#8], [0#8, 0xFE#8], [0#8]],
      let s := { hostAt (.poll 1) [rx] with params := { Config.defaults with pollMax := some 2 } };
      hostMoves s ∧ s.drv.proc = .poll 1 ∧ s.drv.line = some .line0 ∧ s.drv.inbox = rx :: [] ∧
        (∀ m, s.params.pollMax = some m → 1 < m) ∧ 1 ≤ s.params.maxFrame) ∧
    (1#8).getLsbD Config.defaults.measuringBit = true ∧ (0xFE#8).getLsbD Config.defaults.measuringBit = false := by
  refine ⟨⟨⟨rfl, rfl⟩, rfl, rfl, by decide⟩, fun rx _ => ⟨⟨rfl, rfl⟩, rfl, rfl, rfl, ?_, ?_⟩, by decide⟩
  case refine_2 => change 1 ≤ 127; decide
  intro m h
  injection h with h
  omega

/-- A whole burst; a short one with an attempt left; a short one with none. -/
theorem test_witness_BurstIsRetriedThenExhausted :
    ∀ p ∈ [(0, 9), (2, 8), (3, 8)],
      let rx := List.replicate p.2 0#8;
      let s := hostAt (.burst p.1) [rx];
      hostMoves s ∧ s.drv.proc = .burst p.1 ∧ s.drv.line = some .line0 ∧ s.drv.inbox = rx :: [] ∧
        8 ≤ s.params.maxFrame ∧ rx.length = p.2 ∧ s.params.retries = 3 := by
  intro p _
  refine ⟨⟨rfl, rfl⟩, rfl, rfl, rfl, ?_, by simp, rfl⟩
  change 8 ≤ 127
  decide

theorem test_witness_CompensationsFollowInOrder :
    ∀ p ∈ [Proc.awaitT, .awaitP 2508#32, .awaitH 2508#32 25767233#32],
      let s := { hostAt p [] with resp := some ⟨0x01#8, 5#32⟩ };
      hostMoves s ∧ s.resp = some ⟨0x01#8, 5#32⟩ ∧ (0x01#8).toNat < 16 ∧ s.drv.proc = p :=
  fun _ _ => ⟨⟨rfl, rfl⟩, rfl, by decide, rfl⟩

theorem test_witness_PowerOfTwoDivisionsAreExact : 16777215 < 2 ^ 24 ∧ 102400 < 2 ^ 24 := by decide

/-- P1's end state is good for every register; the burst bytes were consumed, so not for image byte 39. -/
theorem test_witness_EndedRunsAndGoodStates :
    good sampled [.selected .tOut, .selected .pOut, .selected .hOut, .selected .tFine, .selected .status,
      .selected .adcT, .selected .adcP, .selected .adcH, .coefficient 0, .coefficient 17] ∧
    good (withImage [(39, 7#8)]) [.imageByte 39] ∧ ¬ good sampled [.imageByte 39] ∧
    ¬ good State.reset [.coefficient 17] ∧
    (let s := { sampled with resp := some ⟨0x00#8, 47445#32⟩, drv := { Driver.reset with calls := [.read 1#8 1] } };
      runEnded s ∧ s.resetIn = false ∧ ∃ t, step s = .next t) := by
  refine ⟨?_, ?_, ?_, ?_, ⟨rfl, rfl, rfl, rfl⟩, rfl, _, rfl⟩ <;> unfold good <;> decide

/-- The run of one command ends with its response; not before it, nor while the host or a call has more to issue. -/
theorem test_run_ends :
    (∃ t, step (presenting 0x01002065#32) = .next t ∧ runEnded t) ∧ ¬ runEnded (presenting 0x01002065#32) ∧
    (let r : Option Response := some ⟨0x00#8, 0#32⟩;
      ¬ runEnded { asking (.command 0#32) [] with resp := r } ∧ ¬ runEnded { hostAt .awaitT [] with resp := r } ∧
        runEnded { hostAt (.awaitH 0#32 0#32) [] with resp := r }) := by
  refine ⟨⟨_, rfl, rfl, rfl, rfl, rfl⟩, ?_⟩
  unfold runEnded
  decide

end Sys2Proof.Tests
end

section
/-!
Proofs. The step of the machine, said once per agent that can move (00_scope R11, R13, 70_reset R260), and the two
statements of the scope that follow from it.
-/

namespace Sys2Proof.Machine

/-! ### One command word (30_encoding R87, R88) -/

theorem execWord_of_decode_ok {w : Word} {i : Instr} (h : decode w = .ok i) (s : State) : execWord w s = exec i s := by
  simp only [execWord, h]

theorem execWord_of_decode_error {w : Word} {e : Illegal} (h : decode w = .error e) (s : State) :
    execWord w s = .next (s.raise .illegalCommand) := by
  simp only [execWord, h]

/-- R11, R91: a word, legal or not, touches the block and gives one response, nothing outside the block. -/
theorem execWord_shape (w : Word) (s : State) : ∃ b r, execWord w s = .next { s with ce := b, resp := some r } := by
  cases h : decode w with
  | ok i => rw [execWord_of_decode_ok h]; exact exec_shape i s
  | error e => exact ⟨_, _, execWord_of_decode_error h s⟩

theorem execWord_params {w : Word} {s t : State} (h : execWord w s = .next t) : t.params = s.params := by
  obtain ⟨b, r, hshape⟩ := execWord_shape w s
  rw [hshape] at h
  cases h
  rfl

/-! ### Which agent moves -/

theorem step_of_resetIn {s : State} (hr : s.resetIn = true) : step s = .next s.hardReset := by
  simp only [step, State.advance, hr, if_true]

theorem step_of_cmds_cons {s : State} {w : Word} {rest : List Word} (hr : s.resetIn = false)
    (hc : s.cmds = w :: rest) : step s = execWord w (s.takeCommand rest) := by
  simp [step, State.advance, hr, hc]

theorem step_of_cmds_nil {s : State} (hr : s.resetIn = false) (hc : s.cmds = []) : step s = .next s.driverStep := by
  simp [step, State.advance, hr, hc]

/-- What a step can do: the hardware reset, the command presented, or one move of the host agent. -/
theorem step_cases {s t : State} (h : step s = .next t) :
    (s.resetIn = true ∧ t = s.hardReset) ∨
    (∃ w rest, s.resetIn = false ∧ s.cmds = w :: rest ∧ execWord w (s.takeCommand rest) = .next t) ∨
    (s.resetIn = false ∧ s.cmds = [] ∧ t = s.driverStep) := by
  cases hr : s.resetIn with
  | true =>
    rw [step_of_resetIn hr] at h
    cases h
    exact .inl ⟨rfl, rfl⟩
  | false =>
    cases hc : s.cmds with
    | cons w rest => exact .inr (.inl ⟨w, rest, rfl, rfl, (step_of_cmds_cons hr hc).symm.trans h⟩)
    | nil =>
      rw [step_of_cmds_nil hr hc] at h
      cases h
      exact .inr (.inr ⟨rfl, rfl, rfl⟩)

/-! ### The statements -/

/-- Settles O49: each of the three agents that can move leaves the parameters alone. -/
theorem parametersNeverChange : Obligations.ParametersNeverChange := by
  intro s t h
  rcases step_cases h with ⟨_, rfl⟩ | ⟨w, rest, _, _, hw⟩ | ⟨_, _, rfl⟩
  · exact s.hardReset_params
  · exact (execWord_params hw).trans (s.takeCommand_params rest)
  · obtain ⟨hparams, _⟩ := s.driverStep_sameBlockSide
    exact hparams

/-- Settles O1: with the port taken and the word legal, the step is `exec` on the state `State.takeCommand` gives. -/
theorem stepRunsThePresentedCommand : Obligations.StepRunsThePresentedCommand := by
  intro s w rest i hr hc hd
  calc step s = execWord w (s.takeCommand rest) := step_of_cmds_cons hr hc
    _ = exec i (s.takeCommand rest) := execWord_of_decode_ok hd _

end Sys2Proof.Machine
end

section
/-!
Proofs. What a command can do, said once with its guards (`ExecEffect`, `exec_effect`), and the statements on the flags
and registers that follow from it (10_state R25, R32, R33, R42, R237).
-/

namespace Sys2Proof.Machine

open Sys2Proof.Safety Sys2Proof.Claims

/-! ### What a command can do -/

/-- How a command can end: in a fault, or in its completion under the guards it needs (30_encoding R84, 70_reset R263).
Only `SRST` is known never to fault here; which fault a command raises is said by the laws of its checks. -/
inductive ExecEffect (s : State) : Instr → State → Prop
  | fault (i : Instr) (f : CeFault) (hi : i ≠ .srst) : ExecEffect s i (s.raise f)
  | nop : ExecEffect s .nop (s.complete s.ce 0#32)
  | wrb (addr data : Byte) (ha : addr.toNat < 40) :
      ExecEffect s (.wrb addr data) (s.complete { s.ce with image := s.ce.image.write addr.toNat data } 0#32)
  | rdb (addr : Byte) (v : Word) : ExecEffect s (.rdb addr) (s.complete s.ce v)
  | caldec (hv : s.ce.image.allValid 0 32 = true) :
      ExecEffect s .caldec (s.complete
        { s.ce with
          cal := decodeCalib s.params.h45SignExtend s.ce.image.byte
          image := s.ce.image.consume 0 32
          status := { s.ce.status.newCycle with calv := true } } 0#32)
  | rawdec (hv : s.ce.image.allValid 32 8 = true) :
      ExecEffect s .rawdec (s.complete
        { s.ce with
          adcP := rawCode20 s.params.xlsbMask (s.ce.image.byte 32) (s.ce.image.byte 33) (s.ce.image.byte 34)
          adcT := rawCode20 s.params.xlsbMask (s.ce.image.byte 35) (s.ce.image.byte 36) (s.ce.image.byte 37)
          adcH := rawCode16 (s.ce.image.byte 38) (s.ce.image.byte 39)
          image := s.ce.image.consume 32 40
          status := { s.ce.status.newCycle with avt := true, avp := true, avh := true } } 0#32)
  | setadcT (imm : BitVec 20) :
      ExecEffect s (.setadcT imm) (s.complete
        { s.ce with adcT := imm.setWidth 32, status := { s.ce.status.newCycle with avt := true } } 0#32)
  | setadcP (imm : BitVec 20) :
      ExecEffect s (.setadcP imm) (s.complete
        { s.ce with adcP := imm.setWidth 32, status := { s.ce.status.newCycle with avp := true } } 0#32)
  | setadcH (imm : BitVec 16) :
      ExecEffect s (.setadcH imm) (s.complete
        { s.ce with adcH := imm.setWidth 32, status := { s.ce.status.newCycle with avh := true } } 0#32)
  | compt (hc : s.ce.status.calv = true) (ha : s.ce.status.avt = true) :
      ExecEffect s .compt (s.completeComp
        { s.ce with
          tFine := BitVec.ofInt 32 s.ce.temperature.tFine
          tOut := BitVec.ofInt 32 s.ce.temperature.t
          status := { s.ce.status with tfv := true } }
        s.ce.temperature.ovf (BitVec.ofInt 32 s.ce.temperature.t))
  | compp (hc : s.ce.status.calv = true) (ha : s.ce.status.avp = true) (ht : s.ce.status.tfv = true) :
      ExecEffect s .compp (s.completeComp
        { s.ce with
          pOut := BitVec.ofInt 32 s.ce.pressure.val
          status := { s.ce.status with pv := true } }
        s.ce.pressure.ovf (BitVec.ofInt 32 s.ce.pressure.val))
  | comph (hc : s.ce.status.calv = true) (ha : s.ce.status.avh = true) (ht : s.ce.status.tfv = true) :
      ExecEffect s .comph (s.completeComp
        { s.ce with
          hOut := BitVec.ofInt 32 s.ce.humidity.val
          status := { s.ce.status with hv := true } }
        s.ce.humidity.ovf (BitVec.ofInt 32 s.ce.humidity.val))
  | rdr (sel : RdrSel) (v : Word) : ExecEffect s (.rdr sel) (s.complete s.ce v)
  | rdc (k : BitVec 5) (v : Word) : ExecEffect s (.rdc k) (s.complete s.ce v)
  | srst : ExecEffect s .srst (s.complete Block.reset 0#32)

/-- Every command goes on, in one of the ways `ExecEffect` lists. -/
theorem exec_eq_next_effect (i : Instr) (s : State) : ∃ t, exec i s = .next t ∧ ExecEffect s i t := by
  cases i with
  | nop => exact ⟨_, rfl, .nop⟩
  | wrb a d =>
    simp only [exec, execWrb]
    rcases s.ce.memWrite_cases a d with ⟨_, h⟩ | ⟨ha, h⟩ <;> rw [h]
    · exact ⟨_, rfl, .fault _ _ nofun⟩
    · exact ⟨_, rfl, .wrb a d ha⟩
  | rdb a =>
    simp only [exec, execRdb]
    rcases s.ce.memRead_cases a with ⟨_, h⟩ | ⟨_, _, h⟩ | ⟨v, _, _, h⟩ <;> rw [h]
    · exact ⟨_, rfl, .fault _ _ nofun⟩
    · exact ⟨_, rfl, .fault _ _ nofun⟩
    · exact ⟨_, rfl, .rdb a _⟩
  | caldec =>
    simp only [exec, execCaldec]
    split
    · exact ⟨_, rfl, .caldec ‹_›⟩
    · exact ⟨_, rfl, .fault _ _ nofun⟩
  | rawdec =>
    simp only [exec, execRawdec]
    split
    · exact ⟨_, rfl, .rawdec ‹_›⟩
    · exact ⟨_, rfl, .fault _ _ nofun⟩
  | setadcT imm => exact ⟨_, rfl, .setadcT imm⟩
  | setadcP imm => exact ⟨_, rfl, .setadcP imm⟩
  | setadcH imm => exact ⟨_, rfl, .setadcH imm⟩
  | compt =>
    simp only [exec, execCompt]
    rcases s.ce.status.compCheck_cases s.ce.status.avt true with
      ⟨_, h⟩ | ⟨_, _, h⟩ | ⟨_, _, h, _⟩ | ⟨hc, ha, _, h⟩
    · rw [h]; exact ⟨_, rfl, .fault _ _ nofun⟩
    · rw [h]; exact ⟨_, rfl, .fault _ _ nofun⟩
    · cases h
    · rw [h]; exact ⟨_, rfl, .compt hc ha⟩
  | compp =>
    simp only [exec, execCompp]
    rcases s.ce.status.compCheck_cases s.ce.status.avp s.ce.status.tfv with
      ⟨_, h⟩ | ⟨_, _, h⟩ | ⟨_, _, _, h⟩ | ⟨hc, ha, ht, h⟩ <;> rw [h]
    · exact ⟨_, rfl, .fault _ _ nofun⟩
    · exact ⟨_, rfl, .fault _ _ nofun⟩
    · exact ⟨_, rfl, .fault _ _ nofun⟩
    · exact ⟨_, rfl, .compp hc ha ht⟩
  | comph =>
    simp only [exec, execComph]
    rcases s.ce.status.compCheck_cases s.ce.status.avh s.ce.status.tfv with
      ⟨_, h⟩ | ⟨_, _, h⟩ | ⟨_, _, _, h⟩ | ⟨hc, ha, ht, h⟩ <;> rw [h]
    · exact ⟨_, rfl, .fault _ _ nofun⟩
    · exact ⟨_, rfl, .fault _ _ nofun⟩
    · exact ⟨_, rfl, .fault _ _ nofun⟩
    · exact ⟨_, rfl, .comph hc ha ht⟩
  | rdr sel =>
    simp only [exec, execRdr]
    split
    · exact ⟨_, rfl, .fault _ _ nofun⟩
    · exact ⟨_, rfl, .rdr sel _⟩
  | rdc k =>
    simp only [exec, execRdc]
    split
    · exact ⟨_, rfl, .fault _ _ nofun⟩
    · split
      · exact ⟨_, rfl, .rdc k _⟩
      · exact ⟨_, rfl, .fault _ _ nofun⟩
  | srst => exact ⟨_, rfl, .srst⟩

/-- The inversion of one command's execution. -/
theorem exec_effect {i : Instr} {s t : State} (h : exec i s = .next t) : ExecEffect s i t := by
  obtain ⟨u, hu, he⟩ := exec_eq_next_effect i s
  rw [h] at hu
  cases hu
  exact he

theorem isFaultCode_code (f : CeFault) : isFaultCode f.code = true := by
  cases f <;> decide

theorem isFaultCode_okCode : isFaultCode okCode = false := by decide

theorem isFaultCode_compCode (o : Bool) : isFaultCode (if o then okOvfCode else okCode) = false := by
  cases o <;> decide

theorem compCode_eq_okOvf (o : Bool) : decide ((if o then okOvfCode else okCode) = 0x01#8) = o := by
  cases o <;> decide

theorem okCode_ne_okOvf : okCode ≠ 0x01#8 := by decide

theorem code_ne_okOvf (f : CeFault) : f.code ≠ 0x01#8 := by
  cases f <;> decide

theorem not_completed_raise (s : State) (f : CeFault) : ¬ completed (s.raise f) := by
  rintro ⟨r, hr, hlt⟩
  cases hr
  cases f <;> exact absurd hlt (by decide)

/-! ### Which registers a command writes (10_state R42, R25) -/

/-- Settles O41: outside the block nothing changes by `exec_shape`; inside, by the effect of each command. -/
theorem onlyTheTabledCommandsWrite : Obligations.OnlyTheTabledCommandsWrite := by
  intro i s t h
  refine ⟨?_, fun hs => ?_⟩
  · obtain ⟨b, r, hshape⟩ := exec_shape i s
    rw [hshape] at h
    cases h
    exact ⟨rfl, rfl, rfl, rfl, rfl⟩
  · cases exec_effect h with
    | wrb addr data _ =>
      simp only [State.complete_ce, implies_true, and_self, true_and]
      exact fun x hx _ _ => Memory.read_write_of_ne _ _ (hx addr data rfl)
    | caldec _ =>
      simp only [ne_eq, not_true_eq_false, false_implies, State.complete_ce, implies_true, and_self, true_and]
      intro x _ hx _
      have := hx trivial
      exact (Memory.read_consume ..).trans (if_neg (by omega))
    | rawdec _ =>
      simp only [ne_eq, not_true_eq_false, false_implies, State.complete_ce, implies_true, and_self, true_and]
      intro x _ _ hx
      have := hx trivial
      exact (Memory.read_consume ..).trans (if_neg (by omega))
    | srst => exact absurd rfl hs
    | _ => simp

/-- Settles O42: of the commands that `ExecEffect` lists, only `SRST` and a completing `CALDEC` touch the store. -/
theorem storeChangesOnlyByCaldec : Obligations.StoreChangesOnlyByCaldec := by
  intro i s t h hs hcal
  cases exec_effect h with
  | caldec _ => exact absurd ⟨_, rfl, by decide⟩ (hcal rfl)
  | srst => exact absurd rfl hs
  | _ => exact ⟨rfl, rfl⟩

/-! ### How the flags change (10_state R32, R33, R237) -/

/-- Settles O32: only the effect of `COMPT` sets `TFV`, each load's effect starts a new cycle, and `compCheck` reaches
its third test. -/
theorem newSampleCycleNeedsCompt : Obligations.NewSampleCycleNeedsCompt := by
  refine ⟨fun i s t h hi htfv => ?_, fun s htfv hcalv => ⟨fun hav => ?_, fun hav => ?_⟩, fun i s t hi h hc => ?_⟩
  · cases exec_effect h with
    | compt _ _ => exact absurd rfl hi
    | caldec _ | rawdec _ | setadcT _ | setadcP _ | setadcH _ | srst => rfl
    | _ => exact htfv
  · simp only [exec, execCompp, Status.compCheck, htfv, hcalv, hav]
    rfl
  · simp only [exec, execComph, Status.compCheck, htfv, hcalv, hav]
    rfl
  · cases exec_effect h with
    | fault _ f _ => exact absurd hc (not_completed_raise s f)
    | caldec _ | rawdec _ | setadcT _ | setadcP _ | setadcH _ => exact ⟨rfl, rfl, rfl⟩
    | _ => simp at hi

/-- Settles O40: the response of each effect says which row of R32's table applies. -/
theorem flagsChangeAsTabled : Obligations.FlagsChangeAsTabled := by
  refine ⟨fun s hr => ⟨_, step_of_resetIn hr, rfl⟩, fun i s t r h hresp => ?_⟩
  dsimp only
  cases exec_effect h with
  | fault _ f hi =>
    obtain rfl := Option.some.inj hresp
    simp [hi, isFaultCode_code, code_ne_okOvf, Status.recordFault]
  | srst => rw [if_pos rfl]; rfl
  | compt _ _ | compp _ _ _ | comph _ _ _ =>
    obtain rfl := Option.some.inj ((State.completeComp_resp ..).symm.trans hresp)
    simp [isFaultCode_compCode, compCode_eq_okOvf, loadsT, loadsP, loadsH, Status.recordOvf]
  | _ =>
    obtain rfl := Option.some.inj ((State.complete_resp ..).symm.trans hresp)
    simp [isFaultCode_okCode, okCode_ne_okOvf, loadsT, loadsP, loadsH, Status.newCycle]
end Sys2Proof.Machine
end

section
/-!
Proofs. The invariant of the machine: it holds at reset, and each agent that can move keeps it (10_state R22 to R35,
R38, 20_memory R60).
-/

namespace Sys2Proof.Machine

open Sys2Proof.Safety

/-! ### Ranges of the values that commands load -/

/-- R24: `h12` of a 12-bit value is in the range of a 12-bit coefficient. -/
theorem twelveBit_h12 (signExtend : Bool) (v : BitVec 12) : twelveBit signExtend (h12 signExtend v) := by
  have hlt := v.isLt
  cases signExtend with
  | false =>
    simp only [twelveBit, h12, Bool.false_eq_true, if_false, BitVec.toNat_setWidth]
    omega
  | true =>
    simp only [twelveBit, h12, if_true, BitVec.toInt_signExtend_of_le (show 12 ≤ 16 by decide)]
    have hlo := v.le_toInt
    have hhi := v.toInt_lt
    omega

/-- R26: a 20-bit raw code, whatever the mask. -/
theorem rawCode20_toNat_le (mask : BitVec 4) (b0 b1 b2 : Byte) : (rawCode20 mask b0 b1 b2).toNat ≤ 1048575 := by
  have h0 := b0.isLt
  have h1 := b1.isLt
  have h2 := b2.isLt
  have hnibble : (b2.toNat >>> 4) &&& mask.toNat ≤ b2.toNat >>> 4 := Nat.and_le_left
  rw [rawCode20, BitVec.toNat_ofNat]
  simp only [Nat.shiftLeft_eq, Nat.shiftRight_eq_div_pow] at hnibble ⊢
  omega

/-- R26: the 16-bit humidity code. -/
theorem rawCode16_toNat_le (b0 b1 : Byte) : (rawCode16 b0 b1).toNat ≤ 65535 := by
  have h0 := b0.isLt
  have h1 := b1.isLt
  rw [rawCode16, BitVec.toNat_ofNat, Nat.shiftLeft_eq]
  omega

/-- R26: a zero-extended immediate keeps its value. -/
theorem setWidth32_toNat_le {n : Nat} (hn : n ≤ 32) (v : BitVec n) : (v.setWidth 32).toNat ≤ 2 ^ n - 1 := by
  rw [BitVec.toNat_setWidth_of_le hn]
  have := v.isLt
  omega

/-- R161, R166: the clamp leaves a value in 0..102400, whatever the formula gave. -/
theorem humClamp_mem (z : Int) : 0 ≤ humClamp z ∧ humClamp z ≤ 102400 := by
  simp only [humClamp, asr]
  split <;> split <;> omega

theorem humidity_val_mem (b : Block) : 0 ≤ b.humidity.val ∧ b.humidity.val ≤ 102400 :=
  humClamp_mem _

/-- R141: a non-negative value below `2^32` is what the register's bits say, unsigned. -/
theorem toNat_ofInt32_of_nonneg {v : Int} (lo : 0 ≤ v) (hi : v < 2 ^ 32) : ((BitVec.ofInt 32 v).toNat : Int) = v := by
  rw [BitVec.toNat_ofInt]
  omega

theorem hOut_toNat_le (b : Block) : (BitVec.ofInt 32 b.humidity.val).toNat ≤ 102400 := by
  obtain ⟨lo, hi⟩ := humidity_val_mem b
  have := toNat_ofInt32_of_nonneg lo (by omega)
  omega

end Sys2Proof.Machine

namespace Sys2Proof.Safety

open Sys2Proof.Machine

/-! ### The block's invariant, effect by effect -/

section Effects

variable {p : Config.Params} {b : Block}

/-- A block with no valid result meets the invariant when its image, its loaded values and `FLT` do. -/
theorem BlockInv.of_no_results (image : b.image.wf)
    (h4 : b.status.calv = true → twelveBit p.h45SignExtend b.cal.digH4)
    (h5 : b.status.calv = true → twelveBit p.h45SignExtend b.cal.digH5)
    (adcT : b.status.avt = true → b.adcT.toNat ≤ 1048575) (adcP : b.status.avp = true → b.adcP.toNat ≤ 1048575)
    (adcH : b.status.avh = true → b.adcH.toNat ≤ 65535)
    (flt : b.status.flt = 0#8 ∨ isFaultCode b.status.flt = true)
    (tfv : b.status.tfv = false) (pv : b.status.pv = false) (hv : b.status.hv = false) : BlockInv p b := by
  have noT : ∀ {q : Prop}, b.status.tfv = true → q := fun h => nomatch tfv.symm.trans h
  have noP : ∀ {q : Prop}, b.status.pv = true → q := fun h => nomatch pv.symm.trans h
  have noH : ∀ {q : Prop}, b.status.hv = true → q := fun h => nomatch hv.symm.trans h
  exact { image, h4, h5, adcT, adcP, adcH, flt
          hOut := noH, tfv := noT, pv := noP, hv := noH, temperature := noT, pressure := noP, humidity := noH
          exactT := noT, exactP := noP, exactH := noH }

theorem BlockInv.reset (p : Config.Params) : BlockInv p Block.reset :=
  .of_no_results Memory.wf_nil nofun nofun nofun nofun nofun (.inl rfl) rfl rfl rfl

/-- R35: recording a fault touches `FLT` alone, and leaves there 0 or a fault's code. -/
theorem BlockInv.recordFault (h : BlockInv p b) (f : CeFault) :
    BlockInv p { b with status := b.status.recordFault f.code } where
  __ := h
  flt := by
    rw [Status.recordFault_flt]
    split
    · exact .inr (isFaultCode_code f)
    · exact h.flt

/-- R63: a write below address 40 keeps the canonical form, and no other clause speaks of the image. -/
theorem BlockInv.write (h : BlockInv p b) {a : Nat} (ha : a < 40) (v : Byte) :
    BlockInv p { b with image := b.image.write a v } where
  __ := h
  image := Memory.wf_write h.image ha v

/-- R120: the store takes 12-bit values in range, and a new sample cycle begins. -/
theorem BlockInv.caldec (h : BlockInv p b) (bytes : Nat → Byte) :
    BlockInv p { b with
      cal := decodeCalib p.h45SignExtend bytes
      image := b.image.consume 0 32
      status := { b.status.newCycle with calv := true } } :=
  .of_no_results (Memory.wf_consume h.image 0 32) (fun _ => twelveBit_h12 _ _) (fun _ => twelveBit_h12 _ _)
    h.adcT h.adcP h.adcH h.flt rfl rfl rfl

/-- R125: the three raw codes are in range, and a new sample cycle begins. -/
theorem BlockInv.rawdec (h : BlockInv p b) {t u v : Word} (ht : t.toNat ≤ 1048575) (hu : u.toNat ≤ 1048575)
    (hv : v.toNat ≤ 65535) :
    BlockInv p { b with
      adcP := u, adcT := t, adcH := v
      image := b.image.consume 32 40
      status := { b.status.newCycle with avt := true, avp := true, avh := true } } :=
  .of_no_results (Memory.wf_consume h.image 32 40) h.h4 h.h5 (fun _ => ht) (fun _ => hu) (fun _ => hv) h.flt rfl rfl rfl

theorem BlockInv.setadcT (h : BlockInv p b) (imm : BitVec 20) :
    BlockInv p { b with adcT := imm.setWidth 32, status := { b.status.newCycle with avt := true } } :=
  .of_no_results h.image h.h4 h.h5 (fun _ => setWidth32_toNat_le (by decide) imm) h.adcP h.adcH h.flt rfl rfl rfl

theorem BlockInv.setadcP (h : BlockInv p b) (imm : BitVec 20) :
    BlockInv p { b with adcP := imm.setWidth 32, status := { b.status.newCycle with avp := true } } :=
  .of_no_results h.image h.h4 h.h5 h.adcT (fun _ => setWidth32_toNat_le (by decide) imm) h.adcH h.flt rfl rfl rfl

theorem BlockInv.setadcH (h : BlockInv p b) (imm : BitVec 16) :
    BlockInv p { b with adcH := imm.setWidth 32, status := { b.status.newCycle with avh := true } } :=
  .of_no_results h.image h.h4 h.h5 h.adcT h.adcP (fun _ => setWidth32_toNat_le (by decide) imm) h.flt rfl rfl rfl

/-- R150: a `COMPT` that repeats an earlier one writes the fine temperature that is there, so a pressure or a humidity
that is valid stays the one its command computes. -/
theorem BlockInv.compt (h : BlockInv p b) (hc : b.status.calv = true) (ha : b.status.avt = true) :
    BlockInv p { b with
      tFine := BitVec.ofInt 32 b.temperature.tFine
      tOut := BitVec.ofInt 32 b.temperature.t
      status := Status.recordOvf { b.status with tfv := true } b.temperature.ovf } := by
  have hsame : b.status.tfv = true → BitVec.ofInt 32 b.temperature.tFine = b.tFine := fun htfv =>
    (h.temperature htfv).1.symm
  refine { h with
    tfv := fun _ => ⟨hc, ha⟩, pv := fun hpv => ⟨rfl, (h.pv hpv).2⟩, hv := fun hhv => ⟨rfl, (h.hv hhv).2⟩
    temperature := fun _ => ⟨rfl, rfl⟩, pressure := fun hpv => ?_, humidity := fun hhv => ?_
    exactT := fun _ ho => (Bool.or_eq_false_iff.1 ho).2, exactP := fun hpv ho => ?_, exactH := fun hhv ho => ?_ }
  · simpa only [Block.pressure, hsame (h.pv hpv).1] using h.pressure hpv
  · simpa only [Block.humidity, hsame (h.hv hhv).1] using h.humidity hhv
  · simpa only [Block.pressure, hsame (h.pv hpv).1] using h.exactP hpv (Bool.or_eq_false_iff.1 ho).1
  · simpa only [Block.humidity, hsame (h.hv hhv).1] using h.exactH hhv (Bool.or_eq_false_iff.1 ho).1

/-- R155: no command's computation reads `P_OUT`. -/
theorem BlockInv.compp (h : BlockInv p b) (ha : b.status.avp = true) (ht : b.status.tfv = true) :
    BlockInv p { b with
      pOut := BitVec.ofInt 32 b.pressure.val
      status := Status.recordOvf { b.status with pv := true } b.pressure.ovf } where
  __ := h
  pv _ := ⟨ht, ha⟩
  pressure _ := rfl
  exactT htfv ho := h.exactT htfv (Bool.or_eq_false_iff.1 ho).1
  exactP _ ho := (Bool.or_eq_false_iff.1 ho).2
  exactH hhv ho := h.exactH hhv (Bool.or_eq_false_iff.1 ho).1

/-- R160: no command's computation reads `H_OUT`. -/
theorem BlockInv.comph (h : BlockInv p b) (ha : b.status.avh = true) (ht : b.status.tfv = true) :
    BlockInv p { b with
      hOut := BitVec.ofInt 32 b.humidity.val
      status := Status.recordOvf { b.status with hv := true } b.humidity.ovf } where
  __ := h
  hOut _ := hOut_toNat_le b
  hv _ := ⟨ht, ha⟩
  humidity _ := rfl
  exactT htfv ho := h.exactT htfv (Bool.or_eq_false_iff.1 ho).1
  exactP hpv ho := h.exactP hpv (Bool.or_eq_false_iff.1 ho).1
  exactH _ ho := (Bool.or_eq_false_iff.1 ho).2

end Effects

/-! ### The machine's invariant, agent by agent -/

theorem responseLegal_fault (f : CeFault) : responseLegal ⟨f.code, 0#32⟩ := by
  cases f <;> exact ⟨by decide, fun _ => rfl⟩

theorem responseLegal_ok (v : Word) : responseLegal ⟨okCode, v⟩ := ⟨rfl, nofun⟩

theorem responseLegal_comp (o : Bool) (v : Word) : responseLegal ⟨if o then okOvfCode else okCode, v⟩ := by
  cases o <;> exact ⟨rfl, nofun⟩

section Machine

variable {s t : State}

theorem MachineInv.raise (h : MachineInv s) (f : CeFault) : MachineInv (s.raise f) where
  block := h.block.recordFault f
  resp _ hr := Option.some.inj hr ▸ responseLegal_fault f

theorem MachineInv.complete {b : Block} (hb : BlockInv s.params b) (v : Word) : MachineInv (s.complete b v) where
  block := hb
  resp _ hr := Option.some.inj hr ▸ responseLegal_ok v

theorem MachineInv.completeComp {b : Block} {o : Bool}
    (hb : BlockInv s.params { b with status := b.status.recordOvf o }) (v : Word) :
    MachineInv (s.completeComp b o v) where
  block := hb
  resp _ hr := Option.some.inj hr ▸ responseLegal_comp o v

theorem MachineInv.hardReset (s : State) : MachineInv s.hardReset := ⟨.reset _, fun _ hr => nomatch hr⟩

/-- The invariant speaks of the block's side only. -/
theorem MachineInv.of_sameBlockSide (h : MachineInv s) (hst : s.SameBlockSide t) : MachineInv t := by
  obtain ⟨hparams, hce, -, hresp⟩ := hst
  exact ⟨hparams ▸ hce ▸ h.block, hresp ▸ h.resp⟩

/-- Every command keeps the invariant. -/
theorem MachineInv.exec {i : Instr} (h : MachineInv s) (hx : Machine.exec i s = .next t) : MachineInv t := by
  cases exec_effect hx with
  | fault _ f _ => exact h.raise f
  | nop | rdb _ _ | rdr _ _ | rdc _ _ => exact .complete h.block _
  | wrb _ data ha => exact .complete (h.block.write ha data) _
  | caldec _ => exact .complete (h.block.caldec _) _
  | rawdec _ =>
    exact .complete (h.block.rawdec (rawCode20_toNat_le _ _ _ _) (rawCode20_toNat_le _ _ _ _) (rawCode16_toNat_le _ _)) _
  | setadcT imm => exact .complete (h.block.setadcT imm) _
  | setadcP imm => exact .complete (h.block.setadcP imm) _
  | setadcH imm => exact .complete (h.block.setadcH imm) _
  | compt hc ha => exact .completeComp (h.block.compt hc ha) _
  | compp _ ha ht => exact .completeComp (h.block.compp ha ht) _
  | comph _ ha ht => exact .completeComp (h.block.comph ha ht) _
  | srst => exact .complete (.reset _) _

/-- Every word, legal or not, keeps the invariant. -/
theorem MachineInv.execWord {w : Word} (h : MachineInv s) (hx : Machine.execWord w s = .next t) : MachineInv t := by
  cases hd : decode w with
  | ok i => exact h.exec ((execWord_of_decode_ok hd s).symm.trans hx)
  | error e =>
    rw [execWord_of_decode_error hd] at hx
    cases hx
    exact h.raise _

end Machine

/-! ### The statements -/

/-- Settles O44: the hardware reset establishes the invariant, a command keeps it, the host agent cannot touch what it
speaks of. -/
theorem everyStepKeepsTheInvariant : Obligations.EveryStepKeepsTheInvariant := by
  intro s t h hstep
  rcases step_cases hstep with ⟨_, rfl⟩ | ⟨w, rest, _, _, hw⟩ | ⟨_, _, rfl⟩
  · exact .hardReset s
  · have htaken : MachineInv (s.takeCommand rest) := ⟨h.block, h.resp⟩
    exact htaken.execWord hw
  · exact h.of_sameBlockSide s.driverStep_sameBlockSide

/-- Settles O43: no flag is set in the reset state and no response stands. -/
theorem invariantHoldsAtReset : Obligations.InvariantHoldsAtReset := ⟨.reset _, fun _ hr => nomatch hr⟩

end Sys2Proof.Safety
end

section
/-!
Proofs. The step of the machine again: it always goes on, it waits when nothing is asked, and it clears a sticky field
only by a reset (10_state R34, R35, R40, R103); the layout of the `STATUS` word (R31).
-/

namespace Sys2Proof.Machine

open Sys2Proof.Claims

/-! ### The word of `SRST` (30_encoding R81, R84) -/

/-- A word is its opcode byte above its low 24 bits. -/
theorem opcode_append_low24 (w : Word) : w.opcode ++ w.extractLsb' 0 24 = w :=
  BitVec.extractLsb'_append_extractLsb' (w := 8) (len := 24)

/-- Format Z gives its command only for the word whose low 24 bits are zero (R81). -/
theorem decodeZ_eq_ok {w : Word} {i j : Instr} (h : decodeZ w i = .ok j) : i = j ∧ w.extractLsb' 0 24 = 0#24 := by
  unfold decodeZ at h
  split at h
  · exact ⟨Except.ok.inj h, ‹_›⟩
  · cases h

/-- Of R84's rows only the opcode `0x0F` gives `SRST`, and its format leaves no bit free. -/
theorem eq_srst_word_of_decode {w : Word} (h : decode w = .ok .srst) : w = 0x0F000000#32 := by
  unfold decode at h
  split at h
  case h_12 hop =>
    rw [← opcode_append_low24 w, (decodeZ_eq_ok h).2, show w.opcode = 0x0F#8 from BitVec.eq_of_toNat_eq hop]
    rfl
  case h_1 | h_4 | h_5 | h_7 | h_8 | h_9 => exact nomatch (decodeZ_eq_ok h).1
  case h_2 => unfold decodeWrb at h; split at h <;> cases h
  case h_3 => unfold decodeRdb at h; split at h <;> cases h
  case h_6 => unfold decodeSetadc at h; (repeat' split at h) <;> cases h
  case h_10 => unfold decodeRdr at h; (repeat' split at h) <;> cases h
  case h_11 => unfold decodeRdc at h; (repeat' split at h) <;> cases h
  case h_13 => cases h

/-! ### Sticky fields (10_state R34, R35) -/

/-- `t` keeps `CALV` and `OVF` once set, and `FLT` once not 0. -/
def State.KeepsSticky (s t : State) : Prop :=
  (s.ce.status.calv = true → t.ce.status.calv = true) ∧
  (s.ce.status.ovf = true → t.ce.status.ovf = true) ∧
  (s.ce.status.flt ≠ 0#8 → t.ce.status.flt = s.ce.status.flt)

theorem State.KeepsSticky.of_status_eq {s t : State} (h : t.ce.status = s.ce.status) : s.KeepsSticky t := by
  simp [State.KeepsSticky, h]

theorem State.keepsSticky_raise (s : State) (f : CeFault) : s.KeepsSticky (s.raise f) :=
  ⟨id, id, fun h => if_neg h⟩

/-- Every command but `SRST` keeps the sticky fields. -/
theorem exec_keepsSticky {i : Instr} {s t : State} (h : exec i s = .next t) (hi : i ≠ .srst) : s.KeepsSticky t := by
  cases exec_effect h with
  | fault _ f _ => exact s.keepsSticky_raise f
  | srst => exact absurd rfl hi
  | caldec _ => exact ⟨fun _ => rfl, id, fun _ => rfl⟩
  | compt _ _ | compp _ _ _ | comph _ _ _ => exact ⟨id, fun ho => by simp [ho], fun _ => rfl⟩
  | _ => exact ⟨id, id, fun _ => rfl⟩

/-- Every word but that of `SRST` keeps the sticky fields. -/
theorem execWord_keepsSticky {w : Word} {s t : State} (h : execWord w s = .next t) (hw : w ≠ 0x0F000000#32) :
    s.KeepsSticky t := by
  cases hd : decode w with
  | ok i =>
    rw [execWord_of_decode_ok hd] at h
    refine exec_keepsSticky h ?_
    rintro rfl
    exact hw (eq_srst_word_of_decode hd)
  | error e =>
    rw [execWord_of_decode_error hd] at h
    cases h
    exact s.keepsSticky_raise _

/-! ### The `STATUS` word (10_state R31) -/

/-- An appended field weighs `2 ^ n`, the width of what stands below it. -/
theorem toNat_append_eq_add {m n : Nat} (x : BitVec m) (y : BitVec n) :
    (x ++ y).toNat = x.toNat * 2 ^ n + y.toNat := by
  rw [BitVec.toNat_append, ← Nat.shiftLeft_add_eq_or_of_lt y.isLt, Nat.shiftLeft_eq]

/-! ### The statements -/

/-- Settles O46: with no reset asserted a step is a word that is not `SRST`, or a move of the host agent, which leaves
the block alone. -/
theorem onlyResetClearsTheStickyFields : Obligations.OnlyResetClearsTheStickyFields := by
  intro s t h hr hhead
  rcases step_cases h with ⟨hr', _⟩ | ⟨w, rest, _, hc, hw⟩ | ⟨_, _, rfl⟩
  · exact nomatch hr.symm.trans hr'
  · have hne : w ≠ 0x0F000000#32 := fun he => hhead (by rw [hc, he]; rfl)
    have hkeeps : (s.takeCommand rest).KeepsSticky t := execWord_keepsSticky hw hne
    exact hkeeps
  · obtain ⟨-, hce, -, -⟩ := s.driverStep_sameBlockSide
    exact State.KeepsSticky.of_status_eq (by rw [hce])

/-- Settles O34: each field of the word weighs the width of the fields below it. -/
theorem statusWordLayout : Obligations.StatusWordLayout := by
  intro st
  simp only [Status.toWord, toNat_append_eq_add, BitVec.toNat_ofBool, BitVec.toNat_ofNat]
  omega

/-- Settles O47: by agent, a hardware reset, a word and a move of the host agent each have a next state. -/
theorem everyStepGoesOn : Obligations.EveryStepGoesOn := by
  intro s
  cases hr : s.resetIn with
  | true => exact ⟨_, step_of_resetIn hr⟩
  | false =>
    cases hc : s.cmds with
    | nil => exact ⟨_, step_of_cmds_nil hr hc⟩
    | cons w rest =>
      obtain ⟨b, r, hw⟩ := execWord_shape w (s.takeCommand rest)
      exact ⟨_, (step_of_cmds_cons hr hc).trans hw⟩

/-- Settles O50: the step is the host agent's, and an idle agent with no call to make stays where it is. -/
theorem nothingHappensUnasked : Obligations.NothingHappensUnasked := by
  rintro s ⟨hr, hc⟩ hidle hcalls
  have hstay : s.driverStep = s := by simp only [State.driverStep, hidle, hcalls]
  rw [step_of_cmds_nil hr hc, hstay]

end Sys2Proof.Machine
end

section
/-!
Proofs. Results without overflow are the formulas on mathematical integers (10_state R34, 42_compensation R150, R155,
R160): a step that does not wrap holds its exact value.
-/

namespace Sys2Proof.Machine

open Sys2Proof.Safety

/-! ### Steps that do not wrap -/

theorem wraps_eq_false_iff (n : Nat) (e : Int) : wraps n e = false ↔ wrap n e = e := by
  simp [wraps]

/-- R148: no step of a command overflowed when each of them holds its exact value. -/
theorem anyWraps_eq_false_iff (n : Nat) (es : List Int) : anyWraps n es = false ↔ ∀ e ∈ es, wrap n e = e := by
  simp [anyWraps, wraps_eq_false_iff]

/-- A register takes a wrapped 32-bit value as it is. -/
theorem toInt_ofInt32_wrap (e : Int) : (BitVec.ofInt 32 (wrap 32 e)).toInt = wrap 32 e :=
  BitVec.toInt_ofInt_eq_self (by decide) (wrap_mem (by decide) e).1 (wrap_mem (by decide) e).2

/-! ### The temperature (R150) -/

theorem toInt_temperature_tFine (b : Block) : (BitVec.ofInt 32 b.temperature.tFine).toInt = b.temperature.tFine :=
  toInt_ofInt32_wrap _

theorem toInt_temperature_t (b : Block) : (BitVec.ofInt 32 b.temperature.t).toInt = b.temperature.t := by
  obtain ⟨lo, hi⟩ : (-8388608 : Int) ≤ b.temperature.t ∧ b.temperature.t ≤ 8388607 :=
    asr_mem 8 ⟨(wrap_mem (by decide) _).1, Int.le_sub_one_of_lt (wrap_mem (by decide) _).2⟩
  exact BitVec.toInt_ofInt_eq_self (by decide) (by omega) (by omega)

/-- Peeled from the last step inwards, each step is its exact value; the same shape serves the other step lists. -/
theorem tempSteps_exact {adc t1 t2 t3 : Int} (h : (tempSteps adc t1 t2 t3).ovf = false) :
    let var1 := ((adc / 2 ^ 3 - t1 * 2) * t2) / 2 ^ 11
    let var2 := (((adc / 2 ^ 4 - t1) * (adc / 2 ^ 4 - t1)) / 2 ^ 12 * t3) / 2 ^ 14
    (tempSteps adc t1 t2 t3).tFine = var1 + var2 ∧ (tempSteps adc t1 t2 t3).t = ((var1 + var2) * 5 + 128) / 2 ^ 8 := by
  simp only [tempSteps, anyWraps_eq_false_iff, List.forall_mem_cons] at h
  obtain ⟨hb1, hc1, hm1, hc2, hm2, hm3, htf, hu1, hu2, -⟩ := h
  simp only [tempSteps]
  rw [hu2, hu1, htf, hm3, hm2, hc2, hm1, hc1, hb1]
  exact ⟨rfl, rfl⟩

/-! ### The humidity (R160, R161) -/

theorem humSteps_exact {adc tf h1 h2 h3 h4 h5 h6 : Int} (h : (humSteps adc tf h1 h2 h3 h4 h5 h6).ovf = false) :
    let v := tf - 76800
    let l := (adc * 2 ^ 14 - h4 * 2 ^ 20 - h5 * v + 16384) / 2 ^ 15
    let r := ((((v * h6) / 2 ^ 10 * ((v * h3) / 2 ^ 11 + 32768)) / 2 ^ 10 + 2097152) * h2 + 8192) / 2 ^ 14
    let y := l * r
    (humSteps adc tf h1 h2 h3 h4 h5 h6).val =
      humClamp (y - ((y / 2 ^ 15 * (y / 2 ^ 15)) / 2 ^ 7 * h1) / 2 ^ 4) := by
  simp only [humSteps, anyWraps_eq_false_iff, List.forall_mem_cons] at h
  obtain ⟨hx, ha, hb, hc, hd, he, hf, hg, hh, hhb, hi, hi2, hj, hj1, hy, hk2, hk4, hz, -⟩ := h
  simp only [humSteps]
  rw [hz, hk4, hk2, hy, hj1, hj, hi2, hi, hhb, hh, hg, hf, he, hd, hc, hb, ha, hx]
  rfl

theorem humClamp_eq (z : Int) : humClamp z = max 0 (min z 419430400) / 2 ^ 12 := by
  simp only [humClamp, asr]
  congr 1
  split <;> split <;> omega

/-! ### The pressure (R155 to R157) -/

theorem pressFront_exact {tf p1 p2 p3 p4 p5 p6 : Int} (h : (pressFront tf p1 p2 p3 p4 p5 p6).ovf = false) :
    let v1 := tf - 128000
    (pressFront tf p1 p2 p3 p4 p5 p6).v2 = v1 * v1 * p6 + v1 * p5 * 2 ^ 17 + p4 * 2 ^ 35 ∧
    (pressFront tf p1 p2 p3 p4 p5 p6).den = ((2 ^ 47 + ((v1 * v1 * p3) / 2 ^ 8 + v1 * p2 * 2 ^ 12)) * p1) / 2 ^ 33 := by
  simp only [pressFront, anyWraps_eq_false_iff, List.forall_mem_cons] at h
  obtain ⟨hv1, hq1, hv2a, hq2, hq3, hv2b, hq4, hv2, hq5, hq7, hq8, hv1b, hq9, hq10, -⟩ := h
  simp only [pressFront]
  rw [hq10, hq9, hv1b, hq8, hq7, hq5, hv2, hq4, hv2b, hq3, hq2, hv2a, hq1, hv1]
  exact ⟨rfl, rfl⟩

/-- R145: the model's division is the one that rounds toward zero. -/
theorem tdiv_eq_int_tdiv (n d : Int) : tdiv n d = Int.tdiv n d := by
  have hnat (a : Nat) : (Int.ofNat a < 0) = False := eq_false (Int.not_lt.2 (Int.natCast_nonneg a))
  have hneg (a : Nat) : (Int.negSucc a < 0) = True := eq_true (Int.negSucc_lt_zero a)
  cases n with
  | ofNat a =>
    cases d with
    | ofNat b => exact if_pos (by rw [hnat, hnat])
    | negSucc b => exact if_neg (by simp [hneg])
  | negSucc a =>
    cases d with
    | ofNat b => exact if_neg (by simp [hneg])
    | negSucc b => exact if_pos (by rw [hneg, hneg])

theorem pressBack_exact {adc v2 den p7 p8 p9 : Int} (h : (pressBack adc v2 den p7 p8 p9).ovf = false) :
    let p := Int.tdiv (((1048576 - adc) * 2 ^ 31 - v2) * 3125) den
    let w1 := (p9 * (p / 2 ^ 13) * (p / 2 ^ 13)) / 2 ^ 25
    let w2 := (p8 * p) / 2 ^ 19
    (pressBack adc v2 den p7 p8 p9).val = (p + w1 + w2) / 2 ^ 8 + p7 * 2 ^ 4 := by
  simp only [pressBack, anyWraps_eq_false_iff, List.forall_mem_cons] at h
  obtain ⟨hp0, hp1, hp2, hp3, hp4, hr1, hr2, hr3, hr4, hr5, hr7, hp5, -⟩ := h
  simp only [pressBack]
  rw [hp5, hr7, hr5, hr4, hr3, hr2, hr1, hp4, hp3, hp2, hp1, hp0, tdiv_eq_int_tdiv]
  rfl

/-- R155 to R157: without overflow the sentinel stands exactly for a zero denominator, and any other value is the
formula's and fits `u32`. -/
theorem pressSteps_exact {adc tf p1 p2 p3 p4 p5 p6 p7 p8 p9 : Int}
    (h : (pressSteps adc tf p1 p2 p3 p4 p5 p6 p7 p8 p9).ovf = false) :
    let v1 := tf - 128000
    let v2 := v1 * v1 * p6 + v1 * p5 * 2 ^ 17 + p4 * 2 ^ 35
    let den := ((2 ^ 47 + ((v1 * v1 * p3) / 2 ^ 8 + v1 * p2 * 2 ^ 12)) * p1) / 2 ^ 33
    let p := Int.tdiv (((1048576 - adc) * 2 ^ 31 - v2) * 3125) den
    let w1 := (p9 * (p / 2 ^ 13) * (p / 2 ^ 13)) / 2 ^ 25
    let w2 := (p8 * p) / 2 ^ 19
    let val := (pressSteps adc tf p1 p2 p3 p4 p5 p6 p7 p8 p9).val
    val = (if den = 0 then 0 else (p + w1 + w2) / 2 ^ 8 + p7 * 2 ^ 4) ∧ 0 ≤ val ∧ val < 2 ^ 32 := by
  unfold pressSteps at h ⊢
  by_cases hden : (pressFront tf p1 p2 p3 p4 p5 p6).den = 0
  · simp only [if_pos hden] at h ⊢
    obtain ⟨-, hd⟩ := pressFront_exact h
    rw [if_pos (hd.symm.trans hden)]
    decide
  · simp only [if_neg hden, Bool.or_eq_false_iff, decide_eq_false_iff_not, not_lt, not_le] at h ⊢
    obtain ⟨⟨⟨hfront, hback⟩, lo⟩, hi⟩ := h
    obtain ⟨hv2, hd⟩ := pressFront_exact hfront
    refine ⟨?_, lo, hi⟩
    rw [pressBack_exact hback, if_neg (hd ▸ hden), hv2, hd]

/-! ### The statements -/

/-- Settles O28: by the invariant the registers hold what `COMPT` computes, and none of its steps wrapped. -/
theorem temperatureExactWithoutOverflow : Obligations.TemperatureExactWithoutOverflow := by
  intro s h htfv hovf
  obtain ⟨htf, ht⟩ := h.block.temperature htfv
  obtain ⟨hvtf, hvt⟩ := tempSteps_exact (h.block.exactT htfv hovf)
  dsimp only
  rw [htf, toInt_temperature_tFine, ht, toInt_temperature_t]
  exact ⟨hvtf, hvt⟩

/-- Settles O29: by the invariant the register holds what `COMPH` computes, none of its steps wrapped, and the clamp
keeps it in range. -/
theorem humidityExactWithoutOverflow : Obligations.HumidityExactWithoutOverflow := by
  intro s h hhv hovf
  obtain ⟨lo, hi⟩ := humidity_val_mem s.ce
  dsimp only
  rw [h.block.humidity hhv, toNat_ofInt32_of_nonneg lo (by omega)]
  exact (humSteps_exact (h.block.exactH hhv hovf)).trans (humClamp_eq _)

/-- Settles O30: by the invariant the register holds what `COMPP` computes, none of its steps wrapped, and R157's last
test bounds the value. -/
theorem pressureExactWithoutOverflow : Obligations.PressureExactWithoutOverflow := by
  intro s h hpv hovf
  obtain ⟨hval, lo, hi⟩ := pressSteps_exact (h.block.exactP hpv hovf)
  dsimp only
  rw [h.block.pressure hpv]
  exact (toNat_ofInt32_of_nonneg lo hi).trans hval

end Sys2Proof.Machine
end

section
/-!
Proofs. States that differ only in registers without a value (10_state R37, R38) go on to states that differ only so.
`State.withBlock` puts another block into a state: the host agent never looks at it, and a command looks at what the
two blocks share.
-/

namespace Sys2Proof.Machine

open Sys2Proof.Safety

/-! ### The range of `RDC` does not depend on the store (R182) -/

theorem Calib.exists_read (c : Calib) {k : Nat} (hk : k ≤ 17) : ∃ v, c.read k = some v := by
  rw [← Option.isSome_iff_exists, Calib.read_isSome, decide_eq_true hk]

theorem Calib.read_eq_none (c : Calib) {k : Nat} (hk : ¬ k ≤ 17) : c.read k = none := by
  rw [← Option.isSome_eq_false_iff.trans Option.isNone_iff_eq_none, Calib.read_isSome, decide_eq_false hk]

/-! ### Another block in the same state -/

/-- The state with this block in place of its own: how the proofs here spell a state that differs in the block only. -/
def State.withBlock (s : State) (b : Block) : State := { s with ce := b }

@[simp] theorem State.withBlock_params (s : State) (b : Block) : (s.withBlock b).params = s.params := rfl
@[simp] theorem State.withBlock_ce (s : State) (b : Block) : (s.withBlock b).ce = b := rfl
@[simp] theorem State.withBlock_resp (s : State) (b : Block) : (s.withBlock b).resp = s.resp := rfl
@[simp] theorem State.withBlock_drv (s : State) (b : Block) : (s.withBlock b).drv = s.drv := rfl

/-- A transport operation's outcome with another block in the state it finishes in. -/
def Io.withBlock {α : Type} (b : Block) : Io α → Io α
  | .fails e => .fails e
  | .waits => .waits
  | .done a s => .done a (s.withBlock b)

/-! ### The host agent does not look at the block (00_scope R5) -/

section HostAgent

variable (s : State) (b : Block)

theorem State.transfer_withBlock (line : Line) (sent : List Byte) (n : Nat) :
    (s.withBlock b).transfer line sent n = (s.transfer line sent n).withBlock b := by
  unfold State.transfer
  rw [State.withBlock_drv]
  cases s.drv.inbox <;> rfl

theorem State.hostRead_withBlock (r : Byte) (n : Nat) :
    (s.withBlock b).hostRead r n = (s.hostRead r n).withBlock b := by
  simp only [State.hostRead, State.withBlock_drv, State.withBlock_params, State.transfer_withBlock]
  cases s.drv.line with
  | none => rfl
  | some line =>
    dsimp only
    split
    · rfl
    · cases s.transfer line [r ||| 0x80#8] (n + 1) <;> rfl

theorem State.hostWrite_withBlock (r : Byte) (data : List Byte) :
    (s.withBlock b).hostWrite r data = (s.hostWrite r data).withBlock b := by
  simp only [State.hostWrite, State.withBlock_drv, State.withBlock_params, State.transfer_withBlock]
  cases s.drv.line with
  | none => rfl
  | some line =>
    dsimp only
    split
    · rfl
    · cases s.transfer line (writeFrame r data) (2 * data.length) <;> rfl

/-- A test that does not look at the block sends both states the same way. -/
theorem State.ite_withBlock {q : Prop} {d d' : Decidable q} {b : Block} {x y x' y' : State} (hx : x' = x.withBlock b)
    (hy : y' = y.withBlock b) : @ite _ q d' x' y' = (@ite _ q d x y).withBlock b := by
  by_cases hq : q
  · rw [if_pos hq, if_pos hq, hx]
  · rw [if_neg hq, if_neg hq, hy]

theorem State.calls_withBlock (rest : List Call) :
    { s.withBlock b with drv := { (s.withBlock b).drv with calls := rest } } =
      State.withBlock { s with drv := { s.drv with calls := rest } } b := rfl

theorem State.startCall_withBlock (c : Call) (rest : List Call) :
    (s.withBlock b).startCall c rest = (s.startCall c rest).withBlock b := by
  cases c with
  | init sel => exact State.ite_withBlock rfl (State.ite_withBlock rfl rfl)
  | readSensors => rfl
  | read r n =>
    simp only [State.startCall, State.calls_withBlock, State.hostRead_withBlock]
    cases State.hostRead { s with drv := { s.drv with calls := rest } } r n <;> rfl
  | write r data =>
    simp only [State.startCall, State.calls_withBlock, State.hostWrite_withBlock]
    cases State.hostWrite { s with drv := { s.drv with calls := rest } } r data <;> rfl
  | command w => rfl
  | assertReset => rfl

theorem State.stepInitId_withBlock : (s.withBlock b).stepInitId = s.stepInitId.withBlock b := by
  simp only [State.stepInitId, State.withBlock_params, State.hostRead_withBlock]
  cases s.hostRead s.params.addrId 1 with
  | fails e => rfl
  | waits => rfl
  | done data t => exact State.ite_withBlock rfl rfl

theorem State.stepInitCalTp_withBlock : (s.withBlock b).stepInitCalTp = s.stepInitCalTp.withBlock b := by
  simp only [State.stepInitCalTp, State.withBlock_params, State.hostRead_withBlock]
  cases s.hostRead s.params.addrCalTp 24 with
  | fails e => rfl
  | waits => rfl
  | done data t => exact State.ite_withBlock rfl rfl

theorem State.stepInitCalH1_withBlock : (s.withBlock b).stepInitCalH1 = s.stepInitCalH1.withBlock b := by
  simp only [State.stepInitCalH1, State.withBlock_params, State.hostRead_withBlock]
  cases s.hostRead s.params.addrCalH1 1 with
  | fails e => rfl
  | waits => rfl
  | done data t =>
    match data with
    | [] => rfl
    | [h1] => rfl
    | _ :: _ :: _ => rfl

theorem State.stepInitCalH2_withBlock (h1 : Byte) :
    (s.withBlock b).stepInitCalH2 h1 = (s.stepInitCalH2 h1).withBlock b := by
  simp only [State.stepInitCalH2, State.withBlock_params, State.hostRead_withBlock]
  cases s.hostRead s.params.addrCalH2 7 with
  | fails e => rfl
  | waits => rfl
  | done data t => exact State.ite_withBlock rfl rfl

theorem State.stepInitCtrl_withBlock : (s.withBlock b).stepInitCtrl = s.stepInitCtrl.withBlock b := by
  simp only [State.stepInitCtrl, State.withBlock_params, State.hostWrite_withBlock]
  refine State.ite_withBlock ?_ rfl
  cases s.hostWrite s.params.addrCtrl [s.params.ctrlByte] with
  | fails e => rfl
  | waits => rfl
  | done n t => exact State.ite_withBlock rfl rfl

theorem State.stepPoll_withBlock (polls : Nat) : (s.withBlock b).stepPoll polls = (s.stepPoll polls).withBlock b := by
  simp only [State.stepPoll, State.withBlock_params, State.hostRead_withBlock]
  refine State.ite_withBlock rfl ?_
  cases s.hostRead s.params.addrStatus 1 with
  | fails e => rfl
  | waits => rfl
  | done data t =>
    match data with
    | [] => rfl
    | [status] => exact State.ite_withBlock rfl rfl
    | _ :: _ :: _ => rfl

theorem State.stepBurst_withBlock (failed : Nat) :
    (s.withBlock b).stepBurst failed = (s.stepBurst failed).withBlock b := by
  simp only [State.stepBurst, State.withBlock_params, State.hostRead_withBlock]
  cases s.hostRead s.params.addrData 8 with
  | fails e => rfl
  | waits => rfl
  | done data t => exact State.ite_withBlock rfl (State.ite_withBlock rfl rfl)

theorem State.stepAwait_withBlock {next next' : Word → State} (h : ∀ v, next' v = (next v).withBlock b) :
    (s.withBlock b).stepAwait next' = (s.stepAwait next).withBlock b := by
  unfold State.stepAwait
  rw [show (s.withBlock b).completedValue = s.completedValue from rfl]
  cases s.completedValue with
  | none => rfl
  | some v => exact h v

/-- The host agent moves alike whatever the block holds. -/
theorem State.driverStep_withBlock : (s.withBlock b).driverStep = s.driverStep.withBlock b := by
  unfold State.driverStep
  rw [State.withBlock_drv]
  cases s.drv.proc with
  | idle =>
    cases s.drv.calls with
    | nil => rfl
    | cons c rest => exact s.startCall_withBlock b c rest
  | initId => exact s.stepInitId_withBlock b
  | initCalTp => exact s.stepInitCalTp_withBlock b
  | initCalH1 => exact s.stepInitCalH1_withBlock b
  | initCalH2 h1 => exact s.stepInitCalH2_withBlock b h1
  | initCtrl => exact s.stepInitCtrl_withBlock b
  | poll polls => exact s.stepPoll_withBlock b polls
  | burst failed => exact s.stepBurst_withBlock b failed
  | awaitT | awaitP _ | awaitH _ _ => exact s.stepAwait_withBlock b fun _ => rfl

end HostAgent

end Sys2Proof.Machine

namespace Sys2Proof.Safety

open Sys2Proof.Machine

/-! ### What two blocks that look the same share (10_state R37) -/

section Blocks

variable {a b : Block}

theorem SameVisible.refl (b : Block) : SameVisible b b := by
  constructor <;> intros <;> rfl

theorem SameVisible.ibv (h : SameVisible a b) (x : Nat) : a.image.ibv x = b.image.ibv x := by
  simp only [Memory.ibv, h.image]

theorem SameVisible.allValid (h : SameVisible a b) (lo n : Nat) : a.image.allValid lo n = b.image.allValid lo n := by
  simp only [Memory.allValid, h.ibv]

theorem SameVisible.byte (h : SameVisible a b) : a.image.byte = b.image.byte := by
  funext x
  simp only [Memory.byte, h.image]

theorem SameVisible.memRead (h : SameVisible a b) (addr : Byte) : a.memRead addr = b.memRead addr := by
  simp only [Block.memRead, h.image]

/-- R180: a register whose check passes holds a value, so the two blocks agree on it. -/
theorem SameVisible.selected (h : SameVisible a b) {sel : RdrSel} (hsel : a.status.rdrCheck sel = none) :
    a.selected sel = b.selected sel := by
  cases sel with
  | tOut => exact h.tOut (by simpa [Status.rdrCheck] using hsel)
  | pOut => exact h.pOut (by simpa [Status.rdrCheck] using hsel)
  | hOut => exact h.hOut (by simpa [Status.rdrCheck] using hsel)
  | tFine => exact h.tFine (by simpa [Status.rdrCheck] using hsel)
  | status => exact congrArg Status.toWord h.status
  | adcT => exact h.adcT (by simpa [Status.rdrCheck] using hsel)
  | adcP => exact h.adcP (by simpa [Status.rdrCheck] using hsel)
  | adcH => exact h.adcH (by simpa [Status.rdrCheck] using hsel)

/-- R150 reads the store and `ADC_T`. -/
theorem SameVisible.temperature (h : SameVisible a b) (hc : a.status.calv = true) (ha : a.status.avt = true) :
    a.temperature = b.temperature := by
  simp only [Block.temperature, h.cal hc, h.adcT ha]

/-- R155 reads the store, `ADC_P` and `T_FINE`. -/
theorem SameVisible.pressure (h : SameVisible a b) (hc : a.status.calv = true) (ha : a.status.avp = true)
    (ht : a.status.tfv = true) : a.pressure = b.pressure := by
  simp only [Block.pressure, h.cal hc, h.adcP ha, h.tFine ht]

/-- R160 reads the store, `ADC_H` and `T_FINE`. -/
theorem SameVisible.humidity (h : SameVisible a b) (hc : a.status.calv = true) (ha : a.status.avh = true)
    (ht : a.status.tfv = true) : a.humidity = b.humidity := by
  simp only [Block.humidity, h.cal hc, h.adcH ha, h.tFine ht]

/-! ### Changes that keep two blocks looking the same -/

theorem SameVisible.recordFault (h : SameVisible a b) (c : BitVec 8) :
    SameVisible { a with status := a.status.recordFault c } { b with status := b.status.recordFault c } where
  __ := h
  status := congrArg (Status.recordFault · c) h.status

theorem SameVisible.recordOvf (h : SameVisible a b) (o : Bool) :
    SameVisible { a with status := a.status.recordOvf o } { b with status := b.status.recordOvf o } where
  __ := h
  status := congrArg (Status.recordOvf · o) h.status

theorem SameVisible.write (h : SameVisible a b) (x : Nat) (v : Byte) :
    SameVisible { a with image := a.image.write x v } { b with image := b.image.write x v } where
  __ := h
  image y := by simp only [Memory.read_write, h.image]

theorem SameVisible.consume (h : SameVisible a b) (lo hi : Nat) :
    SameVisible { a with image := a.image.consume lo hi } { b with image := b.image.consume lo hi } where
  __ := h
  image y := by simp only [Memory.read_consume, h.image]

/-- R33: the results lose their value. -/
theorem SameVisible.newCycle (h : SameVisible a b) :
    SameVisible { a with status := a.status.newCycle } { b with status := b.status.newCycle } where
  __ := h
  status := congrArg Status.newCycle h.status
  tFine := nofun
  tOut := nofun
  pOut := nofun
  hOut := nofun

theorem SameVisible.setCal (h : SameVisible a b) (c : Calib) :
    SameVisible { a with cal := c, status := { a.status with calv := true } }
      { b with cal := c, status := { b.status with calv := true } } where
  __ := h
  status := by rw [h.status]
  cal _ := rfl

theorem SameVisible.setAdcT (h : SameVisible a b) (v : Word) :
    SameVisible { a with adcT := v, status := { a.status with avt := true } }
      { b with adcT := v, status := { b.status with avt := true } } where
  __ := h
  status := by rw [h.status]
  adcT _ := rfl

theorem SameVisible.setAdcP (h : SameVisible a b) (v : Word) :
    SameVisible { a with adcP := v, status := { a.status with avp := true } }
      { b with adcP := v, status := { b.status with avp := true } } where
  __ := h
  status := by rw [h.status]
  adcP _ := rfl

theorem SameVisible.setAdcH (h : SameVisible a b) (v : Word) :
    SameVisible { a with adcH := v, status := { a.status with avh := true } }
      { b with adcH := v, status := { b.status with avh := true } } where
  __ := h
  status := by rw [h.status]
  adcH _ := rfl

/-- R150: the results written are the same ones; the two statuses are equal, so the first stands for both, here and
for the pressure and the humidity. -/
theorem SameVisible.setTemperature (h : SameVisible a b) (f t : Word) :
    SameVisible { a with tFine := f, tOut := t, status := { a.status with tfv := true } }
      { b with tFine := f, tOut := t, status := { a.status with tfv := true } } where
  __ := h
  status := rfl
  tFine _ := rfl
  tOut _ := rfl

theorem SameVisible.setPressure (h : SameVisible a b) (v : Word) :
    SameVisible { a with pOut := v, status := { a.status with pv := true } }
      { b with pOut := v, status := { a.status with pv := true } } where
  __ := h
  status := rfl
  pOut _ := rfl

theorem SameVisible.setHumidity (h : SameVisible a b) (v : Word) :
    SameVisible { a with hOut := v, status := { a.status with hv := true } }
      { b with hOut := v, status := { a.status with hv := true } } where
  __ := h
  status := rfl
  hOut _ := rfl

end Blocks

/-! ### Commands from two states that look the same -/

/-- Both outcomes go on, to states that differ in the block only, and there only in what holds no value. -/
def GoOnAlike (o o' : Host.Outcome State Fault Refusal) : Prop :=
  ∃ u c, o = .next u ∧ o' = .next (u.withBlock c) ∧ SameVisible u.ce c

section Commands

variable {s : State} {b : Block}

theorem goOnAlike_raise (h : SameVisible s.ce b) (f : CeFault) :
    GoOnAlike (.next (s.raise f)) (.next ((s.withBlock b).raise f)) :=
  ⟨_, _, rfl, rfl, h.recordFault f.code⟩

theorem goOnAlike_complete {c d : Block} (h : SameVisible c d) (v : Word) :
    GoOnAlike (.next (s.complete c v)) (.next ((s.withBlock b).complete d v)) :=
  ⟨_, _, rfl, rfl, h⟩

theorem goOnAlike_completeComp {c d : Block} (h : SameVisible c d) (o : Bool) (v : Word) :
    GoOnAlike (.next (s.completeComp c o v)) (.next ((s.withBlock b).completeComp d o v)) :=
  ⟨_, _, rfl, rfl, h.recordOvf o⟩

/-- R37: no command tells the two blocks apart: each guard and each value it uses is one that they share. -/
theorem exec_goOnAlike (i : Instr) (h : SameVisible s.ce b) : GoOnAlike (exec i s) (exec i (s.withBlock b)) := by
  cases i with
  | nop => exact goOnAlike_complete h _
  | wrb addr data =>
    by_cases ha : 40 ≤ addr.toNat
    · simp only [exec, execWrb, Block.memWrite, if_pos ha]
      exact goOnAlike_raise h _
    · simp only [exec, execWrb, Block.memWrite, if_neg ha]
      exact goOnAlike_complete (h.write _ _) _
  | rdb addr =>
    simp only [exec, execRdb, State.withBlock_ce, ← h.memRead addr]
    cases s.ce.memRead addr with
    | error f => exact goOnAlike_raise h f
    | ok v => exact goOnAlike_complete h _
  | caldec =>
    simp only [exec, execCaldec, State.withBlock_ce, State.withBlock_params, ← h.allValid, ← h.byte]
    split
    · exact goOnAlike_complete ((h.consume 0 32).newCycle.setCal _) _
    · exact goOnAlike_raise h _
  | rawdec =>
    simp only [exec, execRawdec, State.withBlock_ce, State.withBlock_params, ← h.allValid, ← h.byte]
    split
    · exact goOnAlike_complete ((((h.consume 32 40).newCycle.setAdcT _).setAdcP _).setAdcH _) _
    · exact goOnAlike_raise h _
  | setadcT imm => exact goOnAlike_complete (h.newCycle.setAdcT _) _
  | setadcP imm => exact goOnAlike_complete (h.newCycle.setAdcP _) _
  | setadcH imm => exact goOnAlike_complete (h.newCycle.setAdcH _) _
  | compt =>
    simp only [exec, execCompt, State.withBlock_ce, ← h.status]
    rcases s.ce.status.compCheck_cases s.ce.status.avt true with
      ⟨_, hk⟩ | ⟨_, _, hk⟩ | ⟨_, _, hk, _⟩ | ⟨hc, ha, _, hk⟩
    · rw [hk]; exact goOnAlike_raise h _
    · rw [hk]; exact goOnAlike_raise h _
    · cases hk
    · rw [hk, ← h.temperature hc ha]; exact goOnAlike_completeComp (h.setTemperature _ _) _ _
  | compp =>
    simp only [exec, execCompp, State.withBlock_ce, ← h.status]
    rcases s.ce.status.compCheck_cases s.ce.status.avp s.ce.status.tfv with
      ⟨_, hk⟩ | ⟨_, _, hk⟩ | ⟨_, _, _, hk⟩ | ⟨hc, ha, ht, hk⟩ <;> rw [hk]
    · exact goOnAlike_raise h _
    · exact goOnAlike_raise h _
    · exact goOnAlike_raise h _
    · rw [← h.pressure hc ha ht]; exact goOnAlike_completeComp (h.setPressure _) _ _
  | comph =>
    simp only [exec, execComph, State.withBlock_ce, ← h.status]
    rcases s.ce.status.compCheck_cases s.ce.status.avh s.ce.status.tfv with
      ⟨_, hk⟩ | ⟨_, _, hk⟩ | ⟨_, _, _, hk⟩ | ⟨hc, ha, ht, hk⟩ <;> rw [hk]
    · exact goOnAlike_raise h _
    · exact goOnAlike_raise h _
    · exact goOnAlike_raise h _
    · rw [← h.humidity hc ha ht]; exact goOnAlike_completeComp (h.setHumidity _) _ _
  | rdr sel =>
    simp only [exec, execRdr, State.withBlock_ce, ← h.status]
    cases hk : s.ce.status.rdrCheck sel with
    | some f => exact goOnAlike_raise h f
    | none =>
      rw [← h.selected hk]
      exact goOnAlike_complete h _
  | rdc k =>
    simp only [exec, execRdc, State.withBlock_ce, ← h.status]
    by_cases hk : k.toNat ≤ 17
    · obtain ⟨v, hv⟩ := s.ce.cal.exists_read hk
      obtain ⟨u, hu⟩ := b.cal.exists_read hk
      cases hcalv : s.ce.status.calv with
      | true =>
        rw [← h.cal hcalv, hv]
        exact goOnAlike_complete h v
      | false =>
        rw [hv, hu]
        exact goOnAlike_raise h _
    · rw [s.ce.cal.read_eq_none hk, b.cal.read_eq_none hk]
      exact goOnAlike_raise h _
  | srst => exact goOnAlike_complete (.refl _) _

theorem execWord_goOnAlike (w : Word) (h : SameVisible s.ce b) :
    GoOnAlike (execWord w s) (execWord w (s.withBlock b)) := by
  cases hd : decode w with
  | ok i =>
    rw [execWord_of_decode_ok hd, execWord_of_decode_ok hd]
    exact exec_goOnAlike i h
  | error e =>
    rw [execWord_of_decode_error hd, execWord_of_decode_error hd]
    exact goOnAlike_raise h _

/-- A step of the machine, whichever agent moves. -/
theorem step_goOnAlike (h : SameVisible s.ce b) : GoOnAlike (step s) (step (s.withBlock b)) := by
  cases hr : s.resetIn with
  | true =>
    rw [step_of_resetIn hr, step_of_resetIn (s := s.withBlock b) hr]
    exact ⟨_, _, rfl, rfl, .refl _⟩
  | false =>
    cases hc : s.cmds with
    | cons w rest =>
      rw [step_of_cmds_cons hr hc, step_of_cmds_cons (s := s.withBlock b) hr hc]
      exact execWord_goOnAlike w (s := s.takeCommand rest) h
    | nil =>
      rw [step_of_cmds_nil hr hc, step_of_cmds_nil (s := s.withBlock b) hr hc, s.driverStep_withBlock b]
      obtain ⟨-, hce, -, -⟩ := s.driverStep_sameBlockSide
      exact ⟨_, _, rfl, rfl, hce ▸ h⟩

end Commands

/-! ### The statement -/

theorem Indistinguishable.eq_withBlock {s t : State} (h : Indistinguishable s t) : t = s.withBlock t.ce := by
  obtain ⟨-, hparams, hcmds, hpos, hresp, hreset, hdrv⟩ := h
  cases s
  cases t
  simp_all [State.withBlock]

theorem indistinguishable_withBlock {s : State} {b : Block} (h : SameVisible s.ce b) :
    Indistinguishable s (s.withBlock b) := ⟨h, rfl, rfl, rfl, rfl, rfl, rfl⟩

/-- Settles O45: two indistinguishable states are one state with two blocks, from which every step goes on alike. -/
theorem valuelessRegistersAreNeverSeen : Obligations.ValuelessRegistersAreNeverSeen := by
  intro s t h
  obtain ⟨u, c, hs, ht, hvis⟩ := step_goOnAlike h.ce
  rw [← h.eq_withBlock] at ht
  exact ⟨u, u.withBlock c, hs, ht, indistinguishable_withBlock hvis⟩

end Sys2Proof.Safety
end

section
/-!
Proofs. The encoding (30_encoding R80 to R88): each format as its fields, the decoder's opcode map said once as an
inversion and once as an equation per row; from these the round trip in both directions, the opcode table and the list
of the illegal words.
-/

namespace Sys2Proof.Machine

open Sys2Proof.Claims

/-! ### A word is its fields, format by format (R81)

Format Z is `opcode_append_low24`. -/

section Formats

variable {w : Word} {op : Byte}

/-- A field as a number: R80 to R83 count its lowest bit and its width. -/
theorem toNat_field {n : Nat} (start len : Nat) (x : BitVec n) :
    (x.extractLsb' start len).toNat = x.toNat / 2 ^ start % 2 ^ len := by
  rw [BitVec.extractLsb'_toNat, Nat.shiftRight_eq_div_pow]

/-- Format B. -/
theorem formatB_iff {z a d : Byte} : op ++ z ++ a ++ d = w ↔
    w.opcode = op ∧ w.extractLsb' 16 8 = z ∧ w.extractLsb' 8 8 = a ∧ w.extractLsb' 0 8 = d := by
  simp only [← BitVec.toNat_inj, toNat_append_eq_add, Word.opcode, toNat_field]
  omega

/-- Format S. -/
theorem formatS_iff {sel : BitVec 4} {imm : BitVec 20} : op ++ sel ++ imm = w ↔
    w.opcode = op ∧ w.sel = sel ∧ w.imm20 = imm := by
  simp only [← BitVec.toNat_inj, toNat_append_eq_add, Word.opcode, Word.sel, Word.imm20, toNat_field]
  omega

/-- Format S with the immediate of `SETADC H` (R83): four bits that are shown as zero above a 16-bit code. -/
theorem formatS_setadcH_iff {sel z : BitVec 4} {imm : BitVec 16} : op ++ sel ++ z ++ imm = w ↔
    w.opcode = op ∧ w.sel = sel ∧ w.extractLsb' 16 4 = z ∧ w.extractLsb' 0 16 = imm := by
  simp only [← BitVec.toNat_inj, toNat_append_eq_add, Word.opcode, Word.sel, toNat_field]
  omega

/-- Format S with the selector of `RDR` (R85): a zero bit above a 3-bit code. -/
theorem formatS_rdr_iff {z : BitVec 1} {sel : BitVec 3} {imm : BitVec 20} : op ++ z ++ sel ++ imm = w ↔
    w.opcode = op ∧ w.extractLsb' 23 1 = z ∧ w.extractLsb' 20 3 = sel ∧ w.imm20 = imm := by
  simp only [← BitVec.toNat_inj, toNat_append_eq_add, Word.opcode, Word.imm20, toNat_field]
  omega

/-- Format K. -/
theorem formatK_iff {z : BitVec 19} {k : BitVec 5} : op ++ z ++ k = w ↔
    w.opcode = op ∧ w.extractLsb' 5 19 = z ∧ w.extractLsb' 0 5 = k := by
  simp only [← BitVec.toNat_inj, toNat_append_eq_add, Word.opcode, toNat_field]
  omega

end Formats

/-! ### The opcode map (R84), inverted -/

/-- Which part of the decoder reads a word, by its opcode. -/
inductive DecodeArm (w : Word) : Prop
  | formatZ (i : Instr) (hwf : i.wellFormed = true) (henc : encode i = w.opcode ++ 0#24)
      (hop : w.opcode.toNat = 0x00 ∨ w.opcode.toNat = 0x03 ∨ w.opcode.toNat = 0x04 ∨ w.opcode.toNat = 0x06 ∨
        w.opcode.toNat = 0x07 ∨ w.opcode.toNat = 0x08 ∨ w.opcode.toNat = 0x0F)
      (hd : decode w = decodeZ w i)
  | wrb (hop : w.opcode = 0x01#8) (hd : decode w = decodeWrb w)
  | rdb (hop : w.opcode = 0x02#8) (hd : decode w = decodeRdb w)
  | setadc (hop : w.opcode = 0x05#8) (hd : decode w = decodeSetadc w)
  | rdr (hop : w.opcode = 0x09#8) (hd : decode w = decodeRdr w)
  | rdc (hop : w.opcode = 0x0A#8) (hd : decode w = decodeRdc w)
  | unassigned (hop : (0x0B ≤ w.opcode.toNat ∧ w.opcode.toNat ≤ 0x0E) ∨ 0x10 ≤ w.opcode.toNat)
      (hd : decode w = .error .unassignedOpcode)

/-- The opcode map is total: every word goes to one part of the decoder. -/
theorem decodeArm (w : Word) : DecodeArm w := by
  have hd := decode.eq_1 w
  have heq {c : Byte} (h : w.opcode.toNat = c.toNat) : w.opcode = c := BitVec.eq_of_toNat_eq h
  split at hd
  case h_1 hop => exact .formatZ .nop rfl (by rw [heq (c := 0x00#8) hop]; rfl) (by omega) hd
  case h_2 hop => exact .wrb (heq hop) hd
  case h_3 hop => exact .rdb (heq hop) hd
  case h_4 hop => exact .formatZ .caldec rfl (by rw [heq (c := 0x03#8) hop]; rfl) (by omega) hd
  case h_5 hop => exact .formatZ .rawdec rfl (by rw [heq (c := 0x04#8) hop]; rfl) (by omega) hd
  case h_6 hop => exact .setadc (heq hop) hd
  case h_7 hop => exact .formatZ .compt rfl (by rw [heq (c := 0x06#8) hop]; rfl) (by omega) hd
  case h_8 hop => exact .formatZ .compp rfl (by rw [heq (c := 0x07#8) hop]; rfl) (by omega) hd
  case h_9 hop => exact .formatZ .comph rfl (by rw [heq (c := 0x08#8) hop]; rfl) (by omega) hd
  case h_10 hop => exact .rdr (heq hop) hd
  case h_11 hop => exact .rdc (heq hop) hd
  case h_12 hop => exact .formatZ .srst rfl (by rw [heq (c := 0x0F#8) hop]; rfl) (by omega) hd
  case h_13 =>
    simp only [imp_false] at *
    exact .unassigned (by omega) hd

/-! ### What each part of the decoder accepts -/

theorem RdrSel.code_ofCode (c : BitVec 3) : (RdrSel.ofCode c).code = c := by
  revert c; decide

theorem RdrSel.ofCode_code (sel : RdrSel) : RdrSel.ofCode sel.code = sel := by
  cases sel <;> rfl

section Accepts

variable {w : Word} {i : Instr}

theorem encode_of_decodeWrb (hop : w.opcode = 0x01#8) (h : decodeWrb w = .ok i) :
    encode i = w ∧ i.wellFormed = true := by
  unfold decodeWrb at h
  split at h
  next hz =>
    cases h
    exact ⟨formatB_iff.2 ⟨hop, hz, rfl, rfl⟩, rfl⟩
  next => cases h

theorem encode_of_decodeRdb (hop : w.opcode = 0x02#8) (h : decodeRdb w = .ok i) :
    encode i = w ∧ i.wellFormed = true := by
  unfold decodeRdb at h
  split at h
  next hz =>
    obtain ⟨hhi, hlo⟩ := hz
    cases h
    exact ⟨formatB_iff.2 ⟨hop, hhi, rfl, hlo⟩, rfl⟩
  next => cases h

theorem encode_of_decodeSetadc (hop : w.opcode = 0x05#8) (h : decodeSetadc w = .ok i) :
    encode i = w ∧ i.wellFormed = true := by
  have hsel {c : BitVec 4} (hc : w.sel.toNat = c.toNat) : w.sel = c := BitVec.eq_of_toNat_eq hc
  unfold decodeSetadc at h
  split at h
  case h_1 hs =>
    cases h
    exact ⟨formatS_iff.2 ⟨hop, hsel hs, rfl⟩, rfl⟩
  case h_2 hs =>
    cases h
    exact ⟨formatS_iff.2 ⟨hop, hsel hs, rfl⟩, rfl⟩
  case h_3 hs =>
    split at h
    next hz =>
      cases h
      exact ⟨formatS_setadcH_iff.2 ⟨hop, hsel hs, hz, rfl⟩, rfl⟩
    next => cases h
  case h_4 => cases h

theorem encode_of_decodeRdr (hop : w.opcode = 0x09#8) (h : decodeRdr w = .ok i) :
    encode i = w ∧ i.wellFormed = true := by
  unfold decodeRdr at h
  split at h
  next => cases h
  next hs =>
    split at h
    next hz =>
      cases h
      have hs' : w.extractLsb' 23 1 = 0#1 := (BitVec.eq_zero_or_eq_one _).resolve_right hs
      exact ⟨formatS_rdr_iff.2 ⟨hop, hs', (RdrSel.code_ofCode _).symm, hz⟩, rfl⟩
    next => cases h

theorem encode_of_decodeRdc (hop : w.opcode = 0x0A#8) (h : decodeRdc w = .ok i) :
    encode i = w ∧ i.wellFormed = true := by
  unfold decodeRdc at h
  split at h
  next hz =>
    split at h
    next hk =>
      cases h
      exact ⟨formatK_iff.2 ⟨hop, hz, rfl⟩, decide_eq_true hk⟩
    next => cases h
  next => cases h

end Accepts

/-- What the decoder accepts is a well-formed command, and the word is that command's. -/
theorem encode_of_decode {w : Word} {i : Instr} (h : decode w = .ok i) : encode i = w ∧ i.wellFormed = true := by
  cases decodeArm w with
  | formatZ j hwf henc _ hd =>
    obtain ⟨rfl, hlow⟩ := decodeZ_eq_ok (hd.symm.trans h)
    exact ⟨by rw [henc, ← hlow, opcode_append_low24], hwf⟩
  | wrb hop hd => exact encode_of_decodeWrb hop (hd.symm.trans h)
  | rdb hop hd => exact encode_of_decodeRdb hop (hd.symm.trans h)
  | setadc hop hd => exact encode_of_decodeSetadc hop (hd.symm.trans h)
  | rdr hop hd => exact encode_of_decodeRdr hop (hd.symm.trans h)
  | rdc hop hd => exact encode_of_decodeRdc hop (hd.symm.trans h)
  | unassigned _ hd => exact nomatch hd.symm.trans h

/-! ### One equation per row whose command has operands -/

section Rows

variable {w : Word}

theorem decode_wrb (hop : w.opcode = 0x01#8) (hz : w.extractLsb' 16 8 = 0#8) :
    decode w = .ok (.wrb (w.extractLsb' 8 8) (w.extractLsb' 0 8)) := by
  simp [decode, decodeWrb, hop, hz]

theorem decode_rdb (hop : w.opcode = 0x02#8) (hhi : w.extractLsb' 16 8 = 0#8) (hlo : w.extractLsb' 0 8 = 0#8) :
    decode w = .ok (.rdb (w.extractLsb' 8 8)) := by
  simp [decode, decodeRdb, hop, hhi, hlo]

theorem decode_setadcT (hop : w.opcode = 0x05#8) (hs : w.sel = 0#4) : decode w = .ok (.setadcT w.imm20) := by
  simp [decode, decodeSetadc, hop, hs]

theorem decode_setadcP (hop : w.opcode = 0x05#8) (hs : w.sel = 1#4) : decode w = .ok (.setadcP w.imm20) := by
  simp [decode, decodeSetadc, hop, hs]

theorem decode_setadcH (hop : w.opcode = 0x05#8) (hs : w.sel = 2#4) (hz : w.extractLsb' 16 4 = 0#4) :
    decode w = .ok (.setadcH (w.extractLsb' 0 16)) := by
  simp [decode, decodeSetadc, hop, hs, hz]

theorem decode_rdr (hop : w.opcode = 0x09#8) (hs : w.extractLsb' 23 1 = 0#1) (hz : w.imm20 = 0#20) :
    decode w = .ok (.rdr (RdrSel.ofCode (w.extractLsb' 20 3))) := by
  simp [decode, decodeRdr, hop, hs, hz]

/-- The one row with an extra condition: an index above 17 is refused. -/
theorem decode_rdc (hop : w.opcode = 0x0A#8) (hz : w.extractLsb' 5 19 = 0#19) :
    decode w = if (w.extractLsb' 0 5).toNat ≤ 17 then .ok (.rdc (w.extractLsb' 0 5)) else .error .badIndex := by
  simp [decode, decodeRdc, hop, hz]

end Rows

/-! ### The word of a command is read back -/

/-- The index of `RDC` alone decides whether its word is accepted. -/
theorem decode_encode_rdc (k : BitVec 5) :
    decode (encode (.rdc k)) = if k.toNat ≤ 17 then .ok (.rdc k) else .error .badIndex := by
  obtain ⟨hop, hz, hk⟩ := formatK_iff.1 (rfl : _ = encode (.rdc k))
  rw [decode_rdc hop hz, hk]

theorem decode_encode {i : Instr} (hwf : i.wellFormed = true) : decode (encode i) = .ok i := by
  cases i with
  | nop | caldec | rawdec | compt | compp | comph | srst => rfl
  | wrb addr data =>
    obtain ⟨hop, hz, ha, hd⟩ := formatB_iff.1 (rfl : _ = encode (.wrb addr data))
    rw [decode_wrb hop hz, ha, hd]
  | rdb addr =>
    obtain ⟨hop, hhi, ha, hlo⟩ := formatB_iff.1 (rfl : _ = encode (.rdb addr))
    rw [decode_rdb hop hhi hlo, ha]
  | setadcT imm =>
    obtain ⟨hop, hs, hi⟩ := formatS_iff.1 (rfl : _ = encode (.setadcT imm))
    rw [decode_setadcT hop hs, hi]
  | setadcP imm =>
    obtain ⟨hop, hs, hi⟩ := formatS_iff.1 (rfl : _ = encode (.setadcP imm))
    rw [decode_setadcP hop hs, hi]
  | setadcH imm =>
    obtain ⟨hop, hs, hz, hi⟩ := formatS_setadcH_iff.1 (rfl : _ = encode (.setadcH imm))
    rw [decode_setadcH hop hs hz, hi]
  | rdr sel =>
    obtain ⟨hop, hz, hs, hi⟩ := formatS_rdr_iff.1 (rfl : _ = encode (.rdr sel))
    rw [decode_rdr hop hz hi, hs, RdrSel.ofCode_code]
  | rdc k => rw [decode_encode_rdc, if_pos (of_decide_eq_true hwf)]

/-! ### The opcode table (R84, R87) -/

theorem inTable (i : Instr) : Laws.InTable.Statement i := by
  cases i with
  | nop => exact Laws.InTable.nop
  | wrb addr data => exact Laws.InTable.wrb addr data
  | rdb addr => exact Laws.InTable.rdb addr
  | caldec => exact Laws.InTable.caldec
  | rawdec => exact Laws.InTable.rawdec
  | setadcT imm => exact Laws.InTable.setadcT imm
  | setadcP imm => exact Laws.InTable.setadcP imm
  | setadcH imm => exact Laws.InTable.setadcH imm
  | compt => exact Laws.InTable.compt
  | compp => exact Laws.InTable.compp
  | comph => exact Laws.InTable.comph
  | rdr sel => exact Laws.InTable.rdr sel
  | rdc k => exact Laws.InTable.rdc k
  | srst => exact Laws.InTable.srst

section Match

variable {w m p : Word}

/-- A field that a row's mask covers whole holds what the row's pattern has there. -/
theorem field_of_and_eq {start len : Nat} {c : BitVec len} (h : w &&& m = p)
    (hc : m.extractLsb' start len = BitVec.allOnes len ∧ p.extractLsb' start len = c) :
    w.extractLsb' start len = c := by
  obtain ⟨hm, hp⟩ := hc
  rw [← hp, ← h, BitVec.extractLsb'_and, hm, BitVec.and_allOnes]

/-- A row of format Z matches one word. -/
theorem eq_of_and_full (h : w &&& 0xFFFFFFFF#32 = p) : w = p := BitVec.and_allOnes.symm.trans h

/-- A row that matches is the row of the command that the word decodes to. -/
theorem decode_of_isMatch {row : OpcodeRow} (hrow : row ∈ opcodeRows) (h : row.isMatch w = true) :
    ∃ i, decode w = .ok i ∧ i.mnemonic = row.mnemonic := by
  obtain ⟨hmask, hextra⟩ :
      w &&& row.mask = row.pattern ∧ (row.mnemonic ≠ "RDC" ∨ (w.extractLsb' 0 5).toNat ≤ 17) := by
    simpa [OpcodeRow.isMatch] using h
  simp only [opcodeRows, List.mem_cons, List.not_mem_nil, or_false] at hrow
  have field {start len : Nat} {c : BitVec len} := field_of_and_eq (start := start) (c := c) hmask
  rcases hrow with rfl | rfl | rfl | rfl | rfl | rfl | rfl | rfl | rfl | rfl | rfl | rfl | rfl | rfl
  · exact ⟨.nop, by rw [eq_of_and_full hmask]; rfl, rfl⟩
  · exact ⟨_, decode_wrb (field (by decide)) (field (by decide)), rfl⟩
  · exact ⟨_, decode_rdb (field (by decide)) (field (by decide)) (field (by decide)), rfl⟩
  · exact ⟨.caldec, by rw [eq_of_and_full hmask]; rfl, rfl⟩
  · exact ⟨.rawdec, by rw [eq_of_and_full hmask]; rfl, rfl⟩
  · exact ⟨_, decode_setadcT (field (by decide)) (field (by decide)), rfl⟩
  · exact ⟨_, decode_setadcP (field (by decide)) (field (by decide)), rfl⟩
  · exact ⟨_, decode_setadcH (field (by decide)) (field (by decide)) (field (by decide)), rfl⟩
  · exact ⟨.compt, by rw [eq_of_and_full hmask]; rfl, rfl⟩
  · exact ⟨.compp, by rw [eq_of_and_full hmask]; rfl, rfl⟩
  · exact ⟨.comph, by rw [eq_of_and_full hmask]; rfl, rfl⟩
  · exact ⟨_, decode_rdr (field (by decide)) (field (by decide)) (field (by decide)), rfl⟩
  · have hk := hextra.resolve_left (absurd rfl)
    exact ⟨_, (decode_rdc (field (by decide)) (field (by decide))).trans (if_pos hk), rfl⟩
  · exact ⟨.srst, by rw [eq_of_and_full hmask]; rfl, rfl⟩

end Match

/-- The mnemonic names the row. -/
theorem opcodeRows_eq_of_mnemonic_eq :
    ∀ a ∈ opcodeRows, ∀ b ∈ opcodeRows, a.mnemonic = b.mnemonic → a = b := by decide

/-! ### The illegal words (R88) -/

section Illegal

variable {w : Word}

theorem field_eq_iff {start len : Nat} {c : BitVec len} :
    w.extractLsb' start len = c ↔ w.toNat / 2 ^ start % 2 ^ len = c.toNat := by
  rw [← BitVec.toNat_inj, toNat_field]

/-- A test that ends in a refusal refuses exactly when it fails. -/
theorem exists_error_ite {p : Prop} [Decidable p] {i : Instr} {x : Illegal} :
    (∃ e, (if p then .ok i else .error x : Except Illegal Instr) = .error e) ↔ ¬ p := by
  split <;> simp [*]

theorem decodeZ_error_iff (i : Instr) : (∃ e, decodeZ w i = .error e) ↔ w.toNat % 2 ^ 24 ≠ 0 := by
  simp [decodeZ, exists_error_ite, field_eq_iff]

theorem decodeWrb_error_iff : (∃ e, decodeWrb w = .error e) ↔ w.toNat / 2 ^ 16 % 2 ^ 8 ≠ 0 := by
  simp [decodeWrb, exists_error_ite, field_eq_iff]

theorem decodeRdb_error_iff :
    (∃ e, decodeRdb w = .error e) ↔ w.toNat / 2 ^ 16 % 2 ^ 8 ≠ 0 ∨ w.toNat % 2 ^ 8 ≠ 0 := by
  rw [decodeRdb, exists_error_ite, not_and_or, field_eq_iff, field_eq_iff]
  simp

theorem decodeSetadc_error_iff : (∃ e, decodeSetadc w = .error e) ↔
    3 ≤ w.toNat / 2 ^ 20 % 2 ^ 4 ∨ (w.toNat / 2 ^ 20 % 2 ^ 4 = 2 ∧ w.toNat / 2 ^ 16 % 2 ^ 4 ≠ 0) := by
  rw [← show w.sel.toNat = w.toNat / 2 ^ 20 % 2 ^ 4 from toNat_field 20 4 w, decodeSetadc]
  split
  case h_1 hs => simp [hs]
  case h_2 hs => simp [hs]
  case h_3 hs => simp [hs, exists_error_ite, field_eq_iff]
  case h_4 h0 h1 h2 =>
    simp only [imp_false] at h0 h1 h2
    exact ⟨fun _ => .inl (by omega), fun _ => ⟨_, rfl⟩⟩

theorem decodeRdr_error_iff :
    (∃ e, decodeRdr w = .error e) ↔ 8 ≤ w.toNat / 2 ^ 20 % 2 ^ 4 ∨ w.toNat % 2 ^ 20 ≠ 0 := by
  have htop : w.extractLsb' 23 1 = 1#1 ↔ 8 ≤ w.toNat / 2 ^ 20 % 2 ^ 4 := by
    rw [field_eq_iff, BitVec.toNat_ofNat]; omega
  rw [decodeRdr, ← htop]
  split
  next hs => simp [hs]
  next hs => simp [hs, exists_error_ite, Word.imm20, field_eq_iff]

theorem decodeRdc_error_iff :
    (∃ e, decodeRdc w = .error e) ↔ w.toNat / 2 ^ 5 % 2 ^ 19 ≠ 0 ∨ 18 ≤ w.toNat % 2 ^ 5 := by
  have hzero : w.extractLsb' 5 19 = 0#19 ↔ w.toNat / 2 ^ 5 % 2 ^ 19 = 0 := field_eq_iff
  rw [decodeRdc, ne_eq, ← hzero]
  split
  next hz => simp [hz, exists_error_ite, Nat.lt_iff_add_one_le]
  next hz => simp [hz]

/-- R88: the decoder refuses the listed words and no other. -/
theorem decode_error_iff (w : Word) : (∃ e, decode w = .error e) ↔ illegalWord w := by
  have hopcode : w.opcode.toNat = w.toNat / 2 ^ 24 := (toNat_field 24 8 w).trans (Nat.mod_eq_of_lt (by omega))
  simp only [illegalWord, ← hopcode]
  cases decodeArm w with
  | formatZ i _ _ hop hd =>
    rw [hd, decodeZ_error_iff]
    rcases hop with hop | hop | hop | hop | hop | hop | hop <;> simp [hop]
  | wrb hop hd => rw [hd, decodeWrb_error_iff]; simp [hop]
  | rdb hop hd => rw [hd, decodeRdb_error_iff]; simp [hop]
  | setadc hop hd => rw [hd, decodeSetadc_error_iff]; simp [hop]
  | rdr hop hd => rw [hd, decodeRdr_error_iff]; simp [hop]
  | rdc hop hd => rw [hd, decodeRdc_error_iff]; simp [hop]
  | unassigned hop hd => exact ⟨fun _ => hop.elim .inl (.inr ∘ .inl), fun _ => ⟨_, hd⟩⟩

end Illegal

/-! ### The statements -/

/-- Settles O3: the well-formed commands are read back, and the only ill-formed terms are the indexes of `RDC` above
17. -/
theorem decodeOfEncodeIsTheCommand : Obligations.DecodeOfEncodeIsTheCommand := by
  refine fun i => ⟨decode_encode, fun hwf => ?_⟩
  cases i with
  | rdc k => exact ⟨_, (decode_encode_rdc k).trans (if_neg (of_decide_eq_false hwf))⟩
  | _ => exact nomatch hwf

/-- Settles O4, part of the decoder by part of the decoder. -/
theorem encodeOfDecodeIsTheWord : Obligations.EncodeOfDecodeIsTheWord := fun _ _ => encode_of_decode

/-- Settles O5: a command's word is in the table, a matching row decodes to its own command, and so two matching rows
have the mnemonic of one command. -/
theorem decodeFollowsTheOpcodeTable : Obligations.DecodeFollowsTheOpcodeTable := by
  refine fun w => ⟨fun i h => ?_, fun row => decode_of_isMatch, fun a ha b hb hma hmb => ?_⟩
  · obtain ⟨rfl, hwf⟩ := encode_of_decode h
    exact inTable i hwf
  · obtain ⟨i, hi, hia⟩ := decode_of_isMatch ha hma
    obtain ⟨j, hj, hjb⟩ := decode_of_isMatch hb hmb
    obtain rfl : i = j := Except.ok.inj (hi.symm.trans hj)
    exact opcodeRows_eq_of_mnemonic_eq a ha b hb (hia.symm.trans hjb)

/-- Settles O2: the list is the decoder's refusals, and a refused word raises `ILLEGAL_COMMAND` on the state from which
it was taken. -/
theorem illegalWordsAreExactlyTheListed : Obligations.IllegalWordsAreExactlyTheListed := by
  refine fun w => ⟨decode_error_iff w, fun s rest hr hc hill => ?_⟩
  obtain ⟨e, he⟩ := (decode_error_iff w).2 hill
  calc step s = execWord w (s.takeCommand rest) := step_of_cmds_cons hr hc
    _ = .next ((s.takeCommand rest).raise .illegalCommand) := execWord_of_decode_error he _

/-- Settles O6: the decoder computes each of the ten commands. -/
theorem sampleWordsDecodeAsWritten : Obligations.SampleWordsDecodeAsWritten :=
  ⟨rfl, rfl, rfl, rfl, rfl, rfl, rfl, rfl, rfl, rfl⟩

end Sys2Proof.Machine
end

section
/-!
Proofs. The response that every command leaves (30_encoding R91, 60_exceptions R230).
-/

namespace Sys2Proof.Machine

/-- R230, R233: a fault answers a code from `0x10` to `0x16` and the value 0. -/
theorem State.raise_answers (s : State) (f : CeFault) :
    ∃ r, (s.raise f).resp = some r ∧ (0x10 ≤ r.rcode.toNat ∧ r.rcode.toNat ≤ 0x16) ∧ r.rval = 0#32 :=
  ⟨_, rfl, by cases f <;> decide, rfl⟩

/-- R230: a command that completes answers the code 0 and its value. -/
theorem State.complete_answers (s : State) (b : Block) (v : Word) :
    ∃ r, (s.complete b v).resp = some r ∧ r.rcode.toNat = 0 ∧ r.rval = v :=
  ⟨_, rfl, rfl, rfl⟩

/-- R147, R230: a compensation that completes answers the code 0 or 1. -/
theorem State.completeComp_answers (s : State) (b : Block) (o : Bool) (v : Word) :
    ∃ r, (s.completeComp b o v).resp = some r ∧ r.rcode.toNat ≤ 1 :=
  ⟨_, rfl, show (if o then okOvfCode else okCode).toNat ≤ 1 by cases o <;> decide⟩

/-- Settles O38: each effect gives its answer, a fault's, a compensation's, or `OK`. -/
theorem everyCommandAnswers : Obligations.EveryCommandAnswers := by
  intro i s t h
  cases exec_effect h with
  | fault _ f _ =>
    obtain ⟨r, hr, ⟨hlo, hhi⟩, hval⟩ := s.raise_answers f
    exact ⟨r, hr, .inr ⟨hlo, hhi⟩, fun _ => hval, fun hone => by omega, fun _ _ _ _ _ _ => hval⟩
  | compt _ _ | compp _ _ _ | comph _ _ _ =>
    refine (s.completeComp_answers ..).imp fun r ⟨hr, hcode⟩ => ⟨hr, .inl hcode, fun hfault => by omega, ?_⟩
    simp
  | _ =>
    refine (s.complete_answers ..).imp fun r ⟨hr, hcode, hval⟩ =>
      ⟨hr, .inl (by omega), fun hfault => by omega, fun hone => by omega, ?_⟩
    simp [hval]

end Sys2Proof.Machine
end

section
/-!
Proofs. The buffer and control commands (40_buffer_and_control R100 to R103): what `WRB` and `RDB` do on each side of
their guards, and the state that `SRST` leaves.
-/

namespace Sys2Proof.Machine

open Sys2Proof.Safety Sys2Proof.Claims

/-! ### The image buffer's accesses, guard by guard (20_memory R62, R63) -/

section Accesses

variable {b : Block} {a : Byte}

theorem Block.memRead_of_ge (h : 40 ≤ a.toNat) : b.memRead a = .error .addressFault := if_pos h

theorem Block.memRead_of_not_valid (h : a.toNat < 40) (hread : b.image.read a.toNat = none) :
    b.memRead a = .error .imageNotValid := by
  simp [Block.memRead, Nat.not_le.2 h, hread]

theorem Block.memRead_of_valid {v : Byte} (h : a.toNat < 40) (hread : b.image.read a.toNat = some v) :
    b.memRead a = .ok v := by
  simp [Block.memRead, Nat.not_le.2 h, hread]

theorem Block.memWrite_of_ge (h : 40 ≤ a.toNat) (v : Byte) : b.memWrite a v = .error .addressFault := if_pos h

theorem Block.memWrite_of_lt (h : a.toNat < 40) (v : Byte) :
    b.memWrite a v = .ok { b with image := b.image.write a.toNat v } := if_neg (Nat.not_le.2 h)

end Accesses

/-! ### What each command does with the outcome of its access or check -/

section Commands

variable {s : State} {addr : Byte}

theorem exec_wrb_of_memWrite_ok {data : Byte} {b : Block} (h : s.ce.memWrite addr data = .ok b) :
    exec (.wrb addr data) s = .next (s.complete b 0#32) := by
  simp only [exec, execWrb, h]

theorem exec_wrb_of_memWrite_error {data : Byte} {f : CeFault} (h : s.ce.memWrite addr data = .error f) :
    exec (.wrb addr data) s = .next (s.raise f) := by
  simp only [exec, execWrb, h]

theorem exec_rdb_of_memRead_ok {v : Byte} (h : s.ce.memRead addr = .ok v) :
    exec (.rdb addr) s = .next (s.complete s.ce (v.setWidth 32)) := by
  simp only [exec, execRdb, h]

theorem exec_rdb_of_memRead_error {f : CeFault} (h : s.ce.memRead addr = .error f) :
    exec (.rdb addr) s = .next (s.raise f) := by
  simp only [exec, execRdb, h]

/-- R149: the first check of the three compensation commands is `CALV`. -/
theorem Status.compCheck_of_not_calv {st : Status} (h : st.calv = false) (o t : Bool) :
    st.compCheck o t = some .calNotValid := by
  simp [Status.compCheck, h]

theorem exec_comp_of_not_calv (h : s.ce.status.calv = false) :
    exec .compt s = .next (s.raise .calNotValid) ∧ exec .compp s = .next (s.raise .calNotValid) ∧
    exec .comph s = .next (s.raise .calNotValid) := by
  simp only [exec, execCompt, execCompp, execComph, Status.compCheck_of_not_calv h, and_self]

end Commands

/-! ### The statements -/

/-- Settles O10: `SRST` puts `Block.reset` in place, whose `CALV` is 0; every other command keeps the sticky fields. -/
theorem srstGivesTheResetState : Obligations.SrstGivesTheResetState := by
  refine ⟨rfl, fun s => ⟨Block.reset, rfl, .refl _, rfl, fun _ => rfl⟩, fun s t h => ?_,
    fun _ _ _ => exec_keepsSticky⟩
  have ht : t = s.complete Block.reset 0#32 := (Host.Outcome.next.inj h).symm
  have hcalv : t.ce.status.calv = false := by rw [ht]; rfl
  exact exec_comp_of_not_calv hcalv

/-- Settles O8: `MemWrite`'s guard splits the addresses, and a write is read back at its own address only. -/
theorem wrbStoresOneByte : Obligations.WrbStoresOneByte := by
  refine fun addr data s => ⟨?_, fun hlt => ⟨?_, ?_, fun x hx => ?_⟩, fun hge => ?_⟩
  · simp only [encode, toNat_append_eq_add, BitVec.toNat_ofNat]
    omega
  · exact exec_wrb_of_memWrite_ok (Block.memWrite_of_lt hlt data)
  · exact Memory.read_write_same ..
  · exact Memory.read_write_of_ne _ _ hx
  · exact exec_wrb_of_memWrite_error (Block.memWrite_of_ge hge data)

/-- Settles O7: under the opcode `0x00` R88 lists every word whose low 24 bits are not all zero. -/
theorem nopAnswersOk : Obligations.NopAnswersOk := by
  refine ⟨fun _ => rfl, rfl, fun w hlt hne => (decode_error_iff w).2 ?_⟩
  have hop : w.toNat / 2 ^ 24 = 0 := Nat.div_eq_of_lt hlt
  have hlow : w.toNat % 2 ^ 24 ≠ 0 := by rwa [Nat.mod_eq_of_lt hlt]
  exact .inr (.inr (.inl ⟨.inl hop, hlow⟩))

/-- Settles O9: the three cases of `MemRead` are the three clauses. -/
theorem rdbReadsOneByte : Obligations.RdbReadsOneByte := by
  refine fun addr s => ⟨?_, fun hge => ?_, fun hlt hnone => ?_, fun v hlt hsome => ?_⟩
  · simp only [encode, toNat_append_eq_add, BitVec.toNat_ofNat]
    omega
  · exact exec_rdb_of_memRead_error (Block.memRead_of_ge hge)
  · exact exec_rdb_of_memRead_error (Block.memRead_of_not_valid hlt hnone)
  · rw [BitVec.ofNat_toNat]
    exact exec_rdb_of_memRead_ok (Block.memRead_of_valid hlt hsome)

end Sys2Proof.Machine
end

section
/-!
Proofs. The decoders `CALDEC`, `RAWDEC` and the direct loads `SETADC` (41_decoders R120 to R129): the values of their
operand forms, the state each of them leaves, and which raw codes they can place.
-/

namespace Sys2Proof.Machine

open Sys2Proof.Claims

/-! ### A region of the image that is valid, or not (20_memory R62) -/

theorem Memory.allValid_of_read {m : Memory} {lo n : Nat} {b : Nat → Byte}
    (h : ∀ i < n, m.read (lo + i) = some (b i)) : m.allValid lo n = true :=
  (m.allValid_iff lo n).2 fun i hi => ⟨b i, h i hi⟩

theorem Memory.read_eq_some_byte {m : Memory} {lo n : Nat} (h : m.allValid lo n = true) :
    ∀ i < n, m.read (lo + i) = some (m.byte (lo + i)) := by
  intro i hi
  obtain ⟨v, hv⟩ := (m.allValid_iff lo n).1 h i hi
  rw [Memory.byte_of_read hv, hv]

theorem Memory.not_allValid_of_read_none {m : Memory} {lo n a : Nat} (hlo : lo ≤ a) (hhi : a < lo + n)
    (h : m.read a = none) : ¬ m.allValid lo n = true := by
  intro hv
  obtain ⟨v, hread⟩ := (m.allValid_iff lo n).1 hv (a - lo) (by omega)
  rw [Nat.add_sub_cancel' hlo, h] at hread
  cases hread

/-! ### The coefficients' values (R121 to R123) -/

/-- A two's complement number, by its sign bit. -/
theorem toInt_eq_ite_sign {n : Nat} (x : BitVec (n + 1)) :
    x.toInt = if 2 ^ n ≤ x.toNat then (x.toNat : Int) - 2 ^ (n + 1) else x.toNat := by
  rw [BitVec.toInt_eq_toNat_cond, pow_succ]
  push_cast
  split <;> split <;> omega

theorem trimWord_toNat (lo hi : Byte) : (trimWord lo hi).toNat = lo.toNat + 256 * hi.toNat := by
  rw [trimWord, toNat_append_eq_add]
  omega

theorem trimWord_toInt (lo hi : Byte) : (trimWord lo hi).toInt = s16 (lo.toNat + 256 * hi.toNat) := by
  rw [← trimWord_toNat]
  exact toInt_eq_ite_sign (n := 15) _

theorem h4Bits_toNat (h3 h4 : Byte) : (h4Bits h3 h4).toNat = h3.toNat * 16 + h4.toNat % 16 := by
  rw [h4Bits, toNat_append_eq_add, toNat_field]
  omega

theorem h5Bits_toNat (h4 h5 : Byte) : (h5Bits h4 h5).toNat = h5.toNat * 16 + h4.toNat / 16 := by
  rw [h5Bits, toNat_append_eq_add, toNat_field]
  omega

theorem h12_true_toInt (v : BitVec 12) : (h12 true v).toInt = v.toInt :=
  BitVec.toInt_signExtend_of_le (by decide)

theorem h12_toInt (signExtend : Bool) (v : BitVec 12) : (h12 signExtend v).toInt = twelve signExtend v.toNat := by
  cases signExtend with
  | true =>
    rw [h12_true_toInt, toInt_eq_ite_sign (n := 11)]
    simp [twelve]
  | false =>
    have hlt := v.isLt
    have hval : (h12 false v).toNat = v.toNat := BitVec.toNat_setWidth_of_le (show 12 ≤ 16 by decide)
    rw [toInt_eq_ite_sign (n := 15), hval, if_neg (by omega)]
    simp [twelve]

/-- The decoder of the trim image reads the bytes 0 to 31 and no other. -/
theorem decodeCalib_congr {b c : Nat → Byte} (h : ∀ a < 32, b a = c a) (signExtend : Bool) :
    decodeCalib signExtend b = decodeCalib signExtend c := by
  simp [decodeCalib, h]

/-! ### The raw codes' values (R125, R126) -/

theorem rawCode20_toNat (mask : BitVec 4) (b0 b1 b2 : Byte) :
    (rawCode20 mask b0 b1 b2).toNat = b0.toNat * 2 ^ 12 + b1.toNat * 2 ^ 4 + (b2.toNat / 2 ^ 4 &&& mask.toNat) := by
  have h0 := b0.isLt
  have h1 := b1.isLt
  have hnibble := Nat.and_lt_two_pow (b2.toNat / 2 ^ 4) mask.isLt
  rw [rawCode20, BitVec.toNat_ofNat, Nat.shiftLeft_eq, Nat.shiftLeft_eq, Nat.shiftRight_eq_div_pow,
    Nat.mod_eq_of_lt (by omega)]

theorem rawCode16_toNat (b0 b1 : Byte) : (rawCode16 b0 b1).toNat = b0.toNat * 2 ^ 8 + b1.toNat := by
  have h0 := b0.isLt
  have h1 := b1.isLt
  rw [rawCode16, BitVec.toNat_ofNat, Nat.shiftLeft_eq, Nat.mod_eq_of_lt (by omega)]

/-! ### What `CALDEC` and `RAWDEC` do with the validity of their region -/

section Commands

variable {s : State}

/-- R120: the block after a `CALDEC` that found the trim bytes `b 0` to `b 31`. -/
def Block.loadTrim (c : Block) (signExtend : Bool) (b : Nat → Byte) : Block :=
  { c with
    cal := decodeCalib signExtend b
    image := c.image.consume 0 32
    status := { c.status.newCycle with calv := true } }

/-- R125: the block after a `RAWDEC` that found the burst bytes `b 0` to `b 7`. -/
def Block.loadBurst (c : Block) (mask : BitVec 4) (b : Nat → Byte) : Block :=
  { c with
    adcP := rawCode20 mask (b 0) (b 1) (b 2)
    adcT := rawCode20 mask (b 3) (b 4) (b 5)
    adcH := rawCode16 (b 6) (b 7)
    image := c.image.consume 32 40
    status := { c.status.newCycle with avt := true, avp := true, avh := true } }

theorem exec_caldec_of_read {b : Nat → Byte} (h : ∀ a < 32, s.ce.image.read a = some (b a)) :
    exec .caldec s = .next (s.complete (s.ce.loadTrim s.params.h45SignExtend b) 0#32) := by
  have hvalid : s.ce.image.allValid 0 32 = true := Memory.allValid_of_read (by simpa using h)
  rw [Block.loadTrim, ← decodeCalib_congr fun a ha => Memory.byte_of_read (h a ha)]
  exact if_pos hvalid

theorem exec_caldec_of_read_none {a : Nat} (ha : a < 32) (h : s.ce.image.read a = none) :
    exec .caldec s = .next (s.raise .imageNotValid) :=
  if_neg (Memory.not_allValid_of_read_none (Nat.zero_le a) (by omega) h)

theorem exec_rawdec_of_read {b : Nat → Byte} (h : ∀ i < 8, s.ce.image.read (32 + i) = some (b i)) :
    exec .rawdec s = .next (s.complete (s.ce.loadBurst s.params.xlsbMask b) 0#32) := by
  have hbyte (i : Nat) (hi : i < 8) : b i = s.ce.image.byte (32 + i) := (Memory.byte_of_read (h i hi)).symm
  simp only [Block.loadBurst, hbyte, Nat.reduceLT]
  exact if_pos (Memory.allValid_of_read h)

theorem exec_rawdec_of_read_none {a : Nat} (hlo : 32 ≤ a) (hhi : a < 40) (h : s.ce.image.read a = none) :
    exec .rawdec s = .next (s.raise .imageNotValid) :=
  if_neg (Memory.not_allValid_of_read_none hlo hhi h)

/-- A `RAWDEC` that completes has loaded some burst. -/
theorem eq_loadBurst_of_completed {t : State} (h : exec .rawdec s = .next t) (hc : completed t) :
    ∃ b, t = s.complete (s.ce.loadBurst s.params.xlsbMask b) 0#32 := by
  cases exec_effect h with
  | fault _ f _ => exact absurd hc (not_completed_raise s f)
  | rawdec _ => exact ⟨fun i => s.ce.image.byte (32 + i), rfl⟩

end Commands

/-! ### Which raw codes can be placed (R127) -/

/-- A machine under this mask whose image holds the burst `b 0` to `b 7` and nothing else. -/
def burstState (mask : BitVec 4) (b : Nat → Byte) : State :=
  { State.reset with
    params := { Config.defaults with xlsbMask := mask }
    ce := { Block.reset with image := (List.range 8).map fun i => (32 + i, b i) } }

theorem burstState_read (mask : BitVec 4) (b : Nat → Byte) :
    ∀ i < 8, (burstState mask b).ce.image.read (32 + i) = some (b i) := by
  intro i hi
  interval_cases i <;> rfl

/-- What completing `RAWDEC`s under a mask leave in the three registers is what some burst gives. -/
theorem completing_rawdec_iff (mask : BitVec 4) (P : Word → Word → Word → Prop) :
    (∃ s t : State, s.params.xlsbMask = mask ∧ exec .rawdec s = .next t ∧ completed t ∧
      P t.ce.adcT t.ce.adcP t.ce.adcH) ↔
    ∃ b : Nat → Byte, P (rawCode20 mask (b 3) (b 4) (b 5)) (rawCode20 mask (b 0) (b 1) (b 2))
      (rawCode16 (b 6) (b 7)) := by
  constructor
  · rintro ⟨s, t, rfl, h, hc, hP⟩
    obtain ⟨b, rfl⟩ := eq_loadBurst_of_completed h hc
    exact ⟨b, hP⟩
  · rintro ⟨b, hP⟩
    exact ⟨burstState mask b, _, rfl, exec_rawdec_of_read (burstState_read mask b), ⟨_, rfl, by decide⟩, hP⟩

/-- The byte at position `j` of the number `v` written most significant byte first and ending at position `last`. -/
def bigEndianByte (v last j : Nat) : Byte := BitVec.ofNat 8 (v / 256 ^ (last - j))

theorem bigEndianByte_toNat (v last j : Nat) : (bigEndianByte v last j).toNat = v / 256 ^ (last - j) % 256 :=
  BitVec.toNat_ofNat ..

/-- A nibble has no bit outside the mask exactly when the mask keeps it. -/
theorem nibble_and_compl_eq_zero_iff (mask : BitVec 4) {x : Nat} (hx : x < 16) :
    x &&& (15 - mask.toNat) = 0 ↔ x &&& mask.toNat = x := by
  have hall : ∀ (m : BitVec 4) (y : Fin 16), y.val &&& (15 - m.toNat) = 0 ↔ y.val &&& m.toNat = y.val := by decide
  exact hall mask ⟨x, hx⟩

/-- The values of a 20-bit raw code whose three bytes start at position `i`. -/
theorem exists_rawCode20_toNat_eq_iff (mask : BitVec 4) (i n : Nat) :
    (∃ b : Nat → Byte, (rawCode20 mask (b i) (b (i + 1)) (b (i + 2))).toNat = n) ↔
      n ≤ 1048575 ∧ n % 16 &&& (15 - mask.toNat) = 0 := by
  rw [nibble_and_compl_eq_zero_iff mask (Nat.mod_lt n (by decide))]
  constructor
  · rintro ⟨b, rfl⟩
    refine ⟨rawCode20_toNat_le .., ?_⟩
    have hlt := Nat.and_lt_two_pow ((b (i + 2)).toNat / 2 ^ 4) mask.isLt
    have hlow : (rawCode20 mask (b i) (b (i + 1)) (b (i + 2))).toNat % 16 =
        (b (i + 2)).toNat / 2 ^ 4 &&& mask.toNat := by
      rw [rawCode20_toNat]
      omega
    rw [hlow, Nat.and_assoc, Nat.and_self]
  · rintro ⟨hle, hmask⟩
    refine ⟨bigEndianByte (n * 16) (i + 2), ?_⟩
    have hnibble : n * 16 % 256 / 2 ^ 4 = n % 16 := by omega
    simp only [rawCode20_toNat, bigEndianByte_toNat, Nat.add_sub_cancel_left, Nat.add_sub_add_left, Nat.sub_self,
      Nat.reduceSub, pow_zero, pow_one, Nat.div_one, hnibble, hmask]
    omega

/-- The humidity code takes every 16-bit value. -/
theorem exists_rawCode16_toNat_eq_iff (i n : Nat) :
    (∃ b : Nat → Byte, (rawCode16 (b i) (b (i + 1))).toNat = n) ↔ n ≤ 65535 := by
  constructor
  · rintro ⟨b, rfl⟩
    exact rawCode16_toNat_le ..
  · intro hle
    refine ⟨bigEndianByte n (i + 1), ?_⟩
    simp only [rawCode16_toNat, bigEndianByte_toNat, Nat.add_sub_cancel_left, Nat.sub_self, pow_zero, pow_one,
      Nat.div_one]
    omega

/-- R83: an immediate of `n` bits, zero-extended, is every word that fits in `n` bits. -/
theorem exists_setWidth_eq {n : Nat} {x : Word} (h : x.toNat < 2 ^ n) :
    ∃ v : BitVec n, v.toNat = x.toNat ∧ v.setWidth 32 = x := by
  have htoNat : (x.setWidth n).toNat = x.toNat := by rw [BitVec.toNat_setWidth, Nat.mod_eq_of_lt h]
  refine ⟨x.setWidth n, htoNat, ?_⟩
  rw [← BitVec.toNat_inj, BitVec.toNat_setWidth, htoNat, Nat.mod_eq_of_lt x.isLt]

theorem exists_setWidth_toNat_eq {n k : Nat} (hn : n < 2 ^ k) (hk : k ≤ 32) :
    ∃ v : BitVec k, (v.setWidth 32).toNat = n :=
  ⟨BitVec.ofNat k n, by rw [BitVec.toNat_setWidth_of_le hk, BitVec.toNat_ofNat, Nat.mod_eq_of_lt hn]⟩

/-- R129: the value that `RAWDEC` gives a 20-bit register is an immediate of `SETADC T` and `SETADC P`. -/
theorem exists_imm20_eq_rawCode20 (mask : BitVec 4) (b0 b1 b2 : Byte) : ∃ v : BitVec 20,
    v.toNat = b0.toNat * 2 ^ 12 + b1.toNat * 2 ^ 4 + (b2.toNat / 2 ^ 4 &&& mask.toNat) ∧
    v.setWidth 32 = rawCode20 mask b0 b1 b2 := by
  rw [← rawCode20_toNat]
  exact exists_setWidth_eq (Nat.lt_succ_of_le (rawCode20_toNat_le ..))

/-- R129: the value that `RAWDEC` gives `ADC_H` is an immediate of `SETADC H`. -/
theorem exists_imm16_eq_rawCode16 (b0 b1 : Byte) : ∃ v : BitVec 16,
    v.toNat = b0.toNat * 2 ^ 8 + b1.toNat ∧ v.setWidth 32 = rawCode16 b0 b1 := by
  rw [← rawCode16_toNat]
  exact exists_setWidth_eq (Nat.lt_succ_of_le (rawCode16_toNat_le ..))

/-! ### The statements -/

/-- Settles O11: the guard of `CALDEC` splits the states, and each coefficient is the value of its operand form. -/
theorem caldecLoadsTheCoefficients : Obligations.CaldecLoadsTheCoefficients := by
  refine ⟨rfl, fun s a ha hnone => exec_caldec_of_read_none ha hnone, fun s b hb => ?_⟩
  refine ⟨decodeCalib s.params.h45SignExtend b, s.ce.image.consume 0 32, exec_caldec_of_read hb,
    fun a ha => ?_, fun a ha => ?_,
    trimWord_toNat .., trimWord_toInt .., trimWord_toInt ..,
    trimWord_toNat .., trimWord_toInt .., trimWord_toInt .., trimWord_toInt .., trimWord_toInt .., trimWord_toInt ..,
    trimWord_toInt .., trimWord_toInt .., trimWord_toInt ..,
    rfl, trimWord_toInt .., rfl, ?_, ?_, toInt_eq_ite_sign (n := 7) _⟩
  · exact (Memory.read_consume ..).trans (if_pos ⟨Nat.zero_le a, ha⟩)
  · exact (Memory.read_consume ..).trans (if_neg (by omega))
  · exact (h12_toInt ..).trans (congrArg _ (h4Bits_toNat ..))
  · exact (h12_toInt ..).trans (congrArg _ (h5Bits_toNat ..))

/-- Settles O13: the guard of `RAWDEC` splits the states, and each raw code is the value of its operand form. -/
theorem rawdecLoadsTheRawCodes : Obligations.RawdecLoadsTheRawCodes := by
  refine ⟨rfl, fun s a hlo hhi hnone => exec_rawdec_of_read_none hlo hhi hnone, fun s b hb => ?_⟩
  refine ⟨_, _, _, s.ce.image.consume 32 40, exec_rawdec_of_read hb, fun a hlo hhi => ?_, fun a ha => ?_,
    rawCode20_toNat .., rawCode20_toNat .., rawCode16_toNat ..⟩
  · exact (Memory.read_consume ..).trans (if_pos ⟨hlo, hhi⟩)
  · exact (Memory.read_consume ..).trans (if_neg (by omega))

/-- Settles O14: each form's word is its fields, its effect is the model's up to the spelling of the zero-extension, and
R88 lists the words under the opcode `0x05` that are refused. -/
theorem setadcLoadsOneRawCode : Obligations.SetadcLoadsOneRawCode := by
  simp only [Obligations.SetadcLoadsOneRawCode, encode, toNat_append_eq_add, BitVec.toNat_ofNat, BitVec.ofNat_toNat]
  refine ⟨fun v s => ⟨by omega, rfl⟩, fun v s => ⟨by omega, rfl⟩, fun v s => ⟨by omega, rfl⟩, fun w hop hfields => ?_⟩
  exact (decode_error_iff w).2 (.inr (.inr (.inr (.inr (.inr (.inl ⟨hop, hfields⟩))))))

/-- Settles O15: with sign extension the 12 bits keep their signed value, whose upper part is the high byte. -/
theorem twelveBitCoefficients : Obligations.TwelveBitCoefficients := by
  refine ⟨fun _ _ => ⟨rfl, rfl⟩, fun h3 h4 h5 =>
    ⟨h4Bits_toNat .., h5Bits_toNat .., fun v => ?_, fun v => h12_toInt false v, ?_, ?_⟩⟩
  · exact (h12_true_toInt v).trans (toInt_eq_ite_sign (n := 11) v)
  · rw [h12_true_toInt, h4Bits, BitVec.toInt_append, if_neg (by decide), toNat_field, mul_comm]
    omega
  · rw [h12_true_toInt, h5Bits, BitVec.toInt_append, if_neg (by decide), toNat_field, mul_comm]
    omega

/-- Settles O16: through `RAWDEC` a register takes the values of its operand form over all bursts, through `SETADC` every
value of its immediate. -/
theorem reachableRawCodes : Obligations.ReachableRawCodes := by
  refine ⟨fun mask n => ⟨?_, ?_⟩, fun n => ?_, fun n => ?_, fun s n hn => ⟨?_, ?_, fun hn16 => ?_⟩⟩
  · exact (completing_rawdec_iff mask fun t _ _ => t.toNat = n).trans (exists_rawCode20_toNat_eq_iff mask 3 n)
  · exact (completing_rawdec_iff mask fun _ p _ => p.toNat = n).trans (exists_rawCode20_toNat_eq_iff mask 0 n)
  · have hmask (mask : BitVec 4) :=
      (completing_rawdec_iff mask fun _ _ h => h.toNat = n).trans (exists_rawCode16_toNat_eq_iff 6 n)
    constructor
    · rintro ⟨s, t, h, hc, hval⟩
      exact (hmask s.params.xlsbMask).1 ⟨s, t, rfl, h, hc, hval⟩
    · intro hle
      obtain ⟨s, t, -, hreach⟩ := (hmask 0#4).2 hle
      exact ⟨s, t, hreach⟩
  · have hnibble : ∀ x : Fin 16, x.val &&& 11 = 0 ↔ x.val = 0 ∨ x.val = 4 := by decide
    exact and_congr_right fun _ => hnibble ⟨n % 16, Nat.mod_lt n (by decide)⟩
  · exact (exists_setWidth_toNat_eq (by omega) (by decide)).imp fun _ hv => ⟨_, rfl, hv⟩
  · exact (exists_setWidth_toNat_eq (by omega) (by decide)).imp fun _ hv => ⟨_, rfl, hv⟩
  · exact (exists_setWidth_toNat_eq (by omega) (by decide)).imp fun _ hv => ⟨_, rfl, hv⟩

/-- Settles O17: each raw code fits its `SETADC` immediate, and the three loads set the flags that `RAWDEC` sets. -/
theorem rawdecIsThreeSetadcs : Obligations.RawdecIsThreeSetadcs := by
  intro s hvalid
  obtain ⟨t, htval, ht⟩ := exists_imm20_eq_rawCode20 s.params.xlsbMask (s.ce.image.byte 35) (s.ce.image.byte 36)
    (s.ce.image.byte 37)
  obtain ⟨p, hpval, hp⟩ := exists_imm20_eq_rawCode20 s.params.xlsbMask (s.ce.image.byte 32) (s.ce.image.byte 33)
    (s.ce.image.byte 34)
  obtain ⟨h, hhval, hh⟩ := exists_imm16_eq_rawCode16 (s.ce.image.byte 38) (s.ce.image.byte 39)
  refine ⟨t, p, h, _, _, _, _, htval, hpval, hhval, rfl, rfl, rfl,
    exec_rawdec_of_read (Memory.read_eq_some_byte hvalid), ?_, Memory.read_consume _ _ _⟩
  rw [Block.loadBurst, ← ht, ← hp, ← hh]
  rfl

end Sys2Proof.Machine
end

section
/-!
Proofs. The arithmetic of the compensation commands (42_compensation R141 to R145): `wrap` is the balanced remainder,
the shift is the floor, and the division leaves 64 bits in one case only.
-/

namespace Sys2Proof.Machine

/-! ### Narrowing (R141) -/

theorem two_pow_eq_two_mul_pred {n : Nat} (hn : 0 < n) : 2 ^ n = 2 * 2 ^ (n - 1) := by
  rw [← pow_succ', Nat.sub_add_cancel hn]

/-- R141: `wrap` is the library's balanced remainder. -/
theorem wrap_eq_bmod {n : Nat} (hn : 0 < n) (e : Int) : wrap n e = Int.bmod e (2 ^ n) := by
  have hhalf : ((2 ^ n : Nat) + 1 : Int) / 2 = 2 ^ (n - 1) := by
    rw [two_pow_eq_two_mul_pred hn]
    push_cast
    omega
  rw [Int.bmod_def, hhalf]
  push_cast
  rfl

/-- R141: the value of a step is the one integer in the signed range that is congruent to the exact value. -/
theorem wrap_eq_iff {n : Nat} (hn : 0 < n) (e r : Int) :
    wrap n e = r ↔ -2 ^ (n - 1) ≤ r ∧ r ≤ 2 ^ (n - 1) - 1 ∧ (2 : Int) ^ n ∣ r - e := by
  rw [wrap_eq_bmod hn, Int.bmod_eq_iff (Nat.two_pow_pos n), Nat.cast_pow, Nat.cast_ofNat]
  have htwo : (2 : Int) ^ n = 2 * 2 ^ (n - 1) := mod_cast two_pow_eq_two_mul_pred hn
  have hlo : (2 : Int) ^ n / 2 = 2 ^ (n - 1) := by omega
  have hhi : ((2 : Int) ^ n + 1) / 2 = 2 ^ (n - 1) := by omega
  rw [hlo, hhi, Int.le_sub_one_iff]

theorem wraps_eq_true_iff (n : Nat) (e : Int) : wraps n e = true ↔ wrap n e ≠ e := by
  simp [wraps]

/-- R141: a step overflows exactly when its exact value is outside the signed range. -/
theorem wraps_eq_false_iff_fits {n : Nat} (hn : 0 < n) (e : Int) :
    wraps n e = false ↔ -2 ^ (n - 1) ≤ e ∧ e < 2 ^ (n - 1) := by
  constructor
  · intro h
    rw [← (wraps_eq_false_iff n e).1 h]
    exact wrap_mem hn e
  · exact fun ⟨lo, hi⟩ => wraps_of_fits hn lo hi

/-! ### The shift and the division (R142, R145) -/

theorem asr_eq_zero_iff (v : Int) (k : Nat) : asr v k = 0 ↔ 0 ≤ v ∧ v < 2 ^ k := by
  rw [asr, Int.ediv_eq_iff_of_pos (by positivity), zero_mul, zero_add]

/-- R142: a shift moves a value towards zero or -1, so it stays in range. -/
theorem wraps_asr_eq_false {n k : Nat} {v : Int} (hn : 0 < n) (lo : -2 ^ (n - 1) ≤ v) (hi : v < 2 ^ (n - 1)) :
    wraps n (asr v k) = false := by
  have hM : (0 : Int) < 2 ^ (n - 1) := by positivity
  have hk : (0 : Int) < 2 ^ k := by positivity
  refine wraps_of_fits hn ?_ ?_
  · rw [asr, Int.le_ediv_iff_mul_le hk]
    nlinarith
  · rw [asr, Int.ediv_lt_iff_lt_mul hk]
    nlinarith

/-- R145: dividing by anything but 1 and -1 at least halves the magnitude. -/
theorem natAbs_tdiv_le_half (n : Int) {d : Int} (hd : 2 ≤ d.natAbs) : (tdiv n d).natAbs ≤ n.natAbs / 2 := by
  rw [tdiv_eq_int_tdiv, Int.natAbs_tdiv]
  exact Nat.div_le_div_left hd (by decide)

/-- R145: the quotient of two 64-bit numbers is too large only for `-2^63` by -1. -/
theorem wraps_tdiv_iff {n d : Int} (hd : d ≠ 0) (lo : -2 ^ 63 ≤ n) (hi : n < 2 ^ 63) :
    wraps 64 (tdiv n d) = true ↔ n = -2 ^ 63 ∧ d = -1 := by
  rw [← Bool.not_eq_false, wraps_eq_false_iff_fits (by decide)]
  obtain rfl | rfl | hbig : d = 1 ∨ d = -1 ∨ 2 ≤ d.natAbs := by omega
  · rw [tdiv_eq_int_tdiv, Int.tdiv_one]
    omega
  · rw [tdiv_eq_int_tdiv, Int.tdiv_neg, Int.tdiv_one]
    omega
  · have hhalf := natAbs_tdiv_le_half n hbig
    omega

/-! ### The statements -/

/-- Settles O18: `wrap` is the balanced remainder, which the library characterises. -/
theorem wrapIsTheUniqueRepresentative : Obligations.WrapIsTheUniqueRepresentative := by
  refine fun n e hn => ⟨(wrap_eq_iff hn e _).1 rfl, fun r lo hi hdvd => ?_, wraps_eq_true_iff n e⟩
  exact ((wrap_eq_iff hn e r).2 ⟨lo, hi, hdvd⟩).symm

/-- Settles O19: integer division by a power of two is the floor, and the floor is no further from zero than the value
or -1. -/
theorem rightShiftIsTheFloor : Obligations.RightShiftIsTheFloor := by
  refine ⟨fun v k => ⟨?_, ?_⟩, fun n k v _ hkn lo hi => ?_, by decide, by decide, by decide⟩
  · exact Int.ediv_mul_le v (by positivity)
  · exact Int.lt_ediv_add_one_mul_self v (by positivity)
  · exact wraps_asr_eq_false (by omega) lo hi

/-- Settles O20: the model's division is the library's truncating one, and only a divisor of -1 can leave the range. -/
theorem divisionRoundsTowardZero : Obligations.DivisionRoundsTowardZero := by
  refine ⟨fun n d _ => tdiv_eq_int_tdiv n d, ⟨by decide, by decide, by decide, by decide, fun d _ => ?_⟩,
    fun n d hd nlo nhi _ _ => wraps_tdiv_iff hd nlo nhi, by decide⟩
  rw [tdiv_eq_int_tdiv, Int.zero_tdiv]

end Sys2Proof.Machine
end

section
/-!
Proofs. The compensation commands (42_compensation R149 to R167): their checks, the values of their steps as the
pseudocode names them, and what a completed command does when it is repeated.
-/

namespace Sys2Proof.Machine

open Sys2Proof.Claims

/-! ### The checks and the completion (R149) -/

section Checks

variable {st : Status}

theorem Status.compCheck_of_not_operand (hc : st.calv = true) (t : Bool) :
    st.compCheck false t = some .operandNotValid := by
  simp [Status.compCheck, hc]

theorem Status.compCheck_of_not_order (hc : st.calv = true) : st.compCheck true false = some .orderViolation := by
  simp [Status.compCheck, hc]

theorem Status.compCheck_of_ready {o t : Bool} (hc : st.calv = true) (ho : o = true) (ht : t = true) :
    st.compCheck o t = none := by
  simp [Status.compCheck, hc, ho, ht]

end Checks

/-- R150: the block with what `COMPT` writes but for the overflow flag. -/
def Block.storeTemperature (b : Block) : Block :=
  { b with
    tFine := BitVec.ofInt 32 b.temperature.tFine
    tOut := BitVec.ofInt 32 b.temperature.t
    status := { b.status with tfv := true } }

/-- R155: the block with what `COMPP` writes but for the overflow flag. -/
def Block.storePressure (b : Block) : Block :=
  { b with pOut := BitVec.ofInt 32 b.pressure.val, status := { b.status with pv := true } }

/-- R160: the block with what `COMPH` writes but for the overflow flag. -/
def Block.storeHumidity (b : Block) : Block :=
  { b with hOut := BitVec.ofInt 32 b.humidity.val, status := { b.status with hv := true } }

section Commands

variable {s : State}

theorem exec_compt_of_fault {f : CeFault} (h : s.ce.status.compCheck s.ce.status.avt true = some f) :
    exec .compt s = .next (s.raise f) := by
  simp only [exec, execCompt, h]

theorem exec_compp_of_fault {f : CeFault} (h : s.ce.status.compCheck s.ce.status.avp s.ce.status.tfv = some f) :
    exec .compp s = .next (s.raise f) := by
  simp only [exec, execCompp, h]

theorem exec_comph_of_fault {f : CeFault} (h : s.ce.status.compCheck s.ce.status.avh s.ce.status.tfv = some f) :
    exec .comph s = .next (s.raise f) := by
  simp only [exec, execComph, h]

theorem exec_compt_of_ready (hc : s.ce.status.calv = true) (ha : s.ce.status.avt = true) :
    exec .compt s = .next (s.completeComp s.ce.storeTemperature s.ce.temperature.ovf
      (BitVec.ofInt 32 s.ce.temperature.t)) := by
  simp only [exec, execCompt, Status.compCheck_of_ready hc ha rfl]
  rfl

theorem exec_compp_of_ready (hc : s.ce.status.calv = true) (ha : s.ce.status.avp = true)
    (ht : s.ce.status.tfv = true) :
    exec .compp s = .next (s.completeComp s.ce.storePressure s.ce.pressure.ovf
      (BitVec.ofInt 32 s.ce.pressure.val)) := by
  simp only [exec, execCompp, Status.compCheck_of_ready hc ha ht]
  rfl

theorem exec_comph_of_ready (hc : s.ce.status.calv = true) (ha : s.ce.status.avh = true)
    (ht : s.ce.status.tfv = true) :
    exec .comph s = .next (s.completeComp s.ce.storeHumidity s.ce.humidity.ovf
      (BitVec.ofInt 32 s.ce.humidity.val)) := by
  simp only [exec, execComph, Status.compCheck_of_ready hc ha ht]
  rfl

/-- R149: a command that takes the faults of `compCheck` with `TFV` as its order takes them in the order of the rule. -/
theorem checksInOrder_of_compCheck {i : Instr} {av : Bool}
    (h : ∀ f, s.ce.status.compCheck av s.ce.status.tfv = some f → exec i s = .next (s.raise f)) :
    checksInOrder i s av := by
  refine ⟨fun hc => h _ (Status.compCheck_of_not_calv hc _ _), fun hc ha => ?_, fun hc ha ht => ?_⟩
  · subst ha
    exact h _ (Status.compCheck_of_not_operand hc _)
  · rw [ha, ht] at h
    exact h _ (Status.compCheck_of_not_order hc)

theorem checksInOrder_compp (s : State) : checksInOrder .compp s s.ce.status.avp :=
  checksInOrder_of_compCheck fun _ => exec_compp_of_fault

theorem checksInOrder_comph (s : State) : checksInOrder .comph s s.ce.status.avh :=
  checksInOrder_of_compCheck fun _ => exec_comph_of_fault

theorem exec_compt_of_not_avt (hc : s.ce.status.calv = true) (ha : s.ce.status.avt = false) :
    exec .compt s = .next (faulted s 0x14#8) :=
  exec_compt_of_fault (ha ▸ Status.compCheck_of_not_operand hc _)

end Commands

/-! ### The values of the steps, as the pseudocode names them (R150, R155, R160) -/

/-- R148: a command overflows when its first step is not its exact value, or a later one is not. -/
theorem anyWraps_cons_iff (n : Nat) (e : Int) (es : List Int) :
    anyWraps n (e :: es) = true ↔ wrap n e ≠ e ∨ anyWraps n es = true := by
  simp [anyWraps, wraps_eq_true_iff]

theorem anyWraps_nil_iff (n : Nat) : anyWraps n [] = true ↔ False := by
  simp [anyWraps]

/-- R155: the steps up to the denominator on the block's registers. -/
def Block.pressureFront (b : Block) : PressFront :=
  pressFront b.tFine.toInt b.cal.digP1.toNat b.cal.digP2.toInt b.cal.digP3.toInt b.cal.digP4.toInt b.cal.digP5.toInt
    b.cal.digP6.toInt

/-- R155: the steps from the division on, on the block's registers. -/
def Block.pressureBack (b : Block) (v2 den : Int) : CompResult :=
  pressBack b.adcP.toInt v2 den b.cal.digP7.toInt b.cal.digP8.toInt b.cal.digP9.toInt

section Pressure

variable {b : Block} {v2 den p5 : Int} {o : Prop}

/-- R156: the sentinel. -/
theorem Block.pressure_of_den_eq_zero (h : b.pressureFront.den = 0) : b.pressure = ⟨0, b.pressureFront.ovf⟩ :=
  if_pos h

/-- R155, R157: the value of a division that takes place, and the last test. -/
theorem Block.pressure_of_den_ne_zero (h : b.pressureFront.den ≠ 0) :
    let back := b.pressureBack b.pressureFront.v2 b.pressureFront.den
    b.pressure = ⟨back.val,
      b.pressureFront.ovf || back.ovf || decide (back.val < 0) || decide (2 ^ 32 ≤ back.val)⟩ :=
  if_neg h

theorem pressureFront_of_pressureDenominator (h : PressureDenominator b v2 den o) :
    b.pressureFront.v2 = v2 ∧ b.pressureFront.den = den ∧ (b.pressureFront.ovf = true ↔ o) := by
  obtain ⟨_, _, _, _, _, _, _, _, _, _, _, _, _, _, rfl, rfl, rfl, rfl, rfl, rfl, rfl, rfl, rfl, rfl, rfl, rfl, rfl,
    rfl, rfl, rfl, ho⟩ := h
  refine ⟨rfl, rfl, ?_⟩
  simp only [ho, Block.pressureFront, pressFront, anyWraps_cons_iff, anyWraps_nil_iff, or_false]
  rfl

theorem pressureBack_of_pressureQuotient (h : PressureQuotient b v2 den p5 o) :
    (b.pressureBack v2 den).val = p5 ∧ ((b.pressureBack v2 den).ovf = true ↔ o) := by
  obtain ⟨_, _, _, _, _, _, _, _, _, _, _, _, _, _, _, rfl, rfl, rfl, rfl, rfl, rfl, rfl, rfl, rfl, rfl, rfl, rfl, rfl,
    rfl, rfl, rfl, ho⟩ := h
  simp only [ho, Block.pressureBack, pressBack, tdiv_eq_int_tdiv, anyWraps_cons_iff, anyWraps_nil_iff, or_false]
  exact ⟨rfl, .rfl⟩

/-- R157: a register takes the low 32 bits of a value. -/
theorem ofInt32_eq_ofNat_emod (v : Int) : BitVec.ofInt 32 v = BitVec.ofNat 32 (v % 2 ^ 32).toNat := by
  apply BitVec.eq_of_toNat_eq
  rw [BitVec.toNat_ofInt, BitVec.toNat_ofNat]
  omega

/-- R156: the denominator is a multiple of `dig_P1`, shifted. -/
theorem Block.pressureFront_den_of_digP1_eq_zero (h : b.cal.digP1 = 0#16) : b.pressureFront.den = 0 := by
  have hwrap : wrap 64 0 = 0 := by decide
  simp [Block.pressureFront, pressFront, h, hwrap, asr]

end Pressure

theorem completed_answered_compCode (s : State) (b : Block) (o : Bool) (v : Word) :
    completed (answered s b (compCode o) v) :=
  ⟨_, rfl, show (compCode o).toNat < 16 by cases o <;> decide⟩

/-- R156: the pressure of a zero denominator. -/
theorem exec_compp_of_den_eq_zero {s : State} (hc : s.ce.status.calv = true) (ha : s.ce.status.avp = true)
    (ht : s.ce.status.tfv = true) (hden : s.ce.pressureFront.den = 0) :
    exec .compp s = .next (answered s
      { s.ce with
        pOut := 0#32
        status := { s.ce.status with pv := true, ovf := s.ce.status.ovf || s.ce.pressureFront.ovf } }
      (compCode s.ce.pressureFront.ovf) 0#32) := by
  rw [exec_compp_of_ready hc ha ht, Block.storePressure, Block.pressure_of_den_eq_zero hden]
  rfl

theorem exec_compp_of_zero_pressureDenominator {s : State} {v2 : Int} {o : Prop} {ovf : Bool}
    (hc : s.ce.status.calv = true) (ha : s.ce.status.avp = true) (ht : s.ce.status.tfv = true)
    (hfront : PressureDenominator s.ce v2 0 o) (hovf : ovf = true ↔ o) :
    exec .compp s = .next (answered s
      { s.ce with pOut := 0#32, status := { s.ce.status with pv := true, ovf := s.ce.status.ovf || ovf } }
      (compCode ovf) 0#32) := by
  obtain ⟨-, hden, ho⟩ := pressureFront_of_pressureDenominator hfront
  obtain rfl : s.ce.pressureFront.ovf = ovf := Bool.eq_iff_iff.2 (ho.trans hovf.symm)
  exact exec_compp_of_den_eq_zero hc ha ht hden

/-! ### The temperature's magnitudes (R151) -/

theorem natAbs_mul_le {x y : Int} {m n : Nat} (hx : x.natAbs ≤ m) (hy : y.natAbs ≤ n) : (x * y).natAbs ≤ m * n := by
  rw [Int.natAbs_mul]
  exact Nat.mul_le_mul hx hy

theorem wrap32_of_natAbs_lt {e : Int} (h : e.natAbs < 2147483648) : wrap 32 e = e :=
  wrap_of_fits (by decide) (by omega) (by omega)

/-- R151: in the order of the steps, each exact value fits; the products are the tight ones. -/
theorem tempSteps_ovf_eq_false {adc t1 t2 t3 : Int} (hadc : 0 ≤ adc ∧ adc ≤ 1048575) (ht1 : 0 ≤ t1 ∧ t1 ≤ 65535)
    (ht2 : t2.natAbs ≤ 16384) (ht3 : t3.natAbs ≤ 4096) (hdiff : (adc / 2 ^ 4 - t1).natAbs ≤ 46340) :
    (tempSteps adc t1 t2 t3).ovf = false := by
  have hm1_le := natAbs_mul_le (x := adc / 2 ^ 3 - t1 * 2) (m := 92681) (by omega) ht2
  have hm2_le := natAbs_mul_le hdiff hdiff
  have hm2_nonneg := mul_self_nonneg (adc / 2 ^ 4 - t1)
  have hm3_le := natAbs_mul_le (x := (adc / 2 ^ 4 - t1) * (adc / 2 ^ 4 - t1) / 2 ^ 12) (m := 524266) (by omega) ht3
  have hb1 : wrap 32 (t1 * 2) = t1 * 2 := wrap32_of_natAbs_lt (by omega)
  have hc1 : wrap 32 (adc / 2 ^ 3 - t1 * 2) = adc / 2 ^ 3 - t1 * 2 := wrap32_of_natAbs_lt (by omega)
  have hc2 : wrap 32 (adc / 2 ^ 4 - t1) = adc / 2 ^ 4 - t1 := wrap32_of_natAbs_lt (by omega)
  have hm1 := wrap32_of_natAbs_lt (hm1_le.trans_lt (by decide))
  have hm2 := wrap32_of_natAbs_lt (hm2_le.trans_lt (by decide))
  have hm3 := wrap32_of_natAbs_lt (hm3_le.trans_lt (by decide))
  simp only [tempSteps, asr, anyWraps_eq_false_iff, List.forall_mem_cons, hb1, hc1, hm1, hc2, hm2, hm3]
  generalize (adc / 2 ^ 3 - t1 * 2) * t2 = m1 at hm1_le
  generalize (adc / 2 ^ 4 - t1) * (adc / 2 ^ 4 - t1) / 2 ^ 12 * t3 = m3 at hm3_le
  have htf : wrap 32 (m1 / 2 ^ 11 + m3 / 2 ^ 14) = m1 / 2 ^ 11 + m3 / 2 ^ 14 := wrap32_of_natAbs_lt (by omega)
  have hu1 := wrap32_of_natAbs_lt (e := (m1 / 2 ^ 11 + m3 / 2 ^ 14) * 5) (by omega)
  have hu2 := wrap32_of_natAbs_lt (e := (m1 / 2 ^ 11 + m3 / 2 ^ 14) * 5 + 128) (by omega)
  simp only [htf, hu1, hu2, List.not_mem_nil, false_implies, implies_true, and_self]

/-! ### Repetition (R167) -/

theorem Status.recordOvf_recordOvf (st : Status) (o : Bool) : (st.recordOvf o).recordOvf o = st.recordOvf o := by
  simp [Status.recordOvf]

/-- R167: a completion that finds its own block, flag included, changes nothing. -/
theorem State.completeComp_completeComp (s : State) (b : Block) (o : Bool) (v : Word) :
    (s.completeComp b o v).completeComp { b with status := b.status.recordOvf o } o v = s.completeComp b o v := by
  simp only [State.completeComp, Status.recordOvf_recordOvf]
  rfl

/-! ### The statements -/

/-- Settles O21: the checks of `compCheck` come in the order of R149, and a fault is `State.raise`. -/
theorem compensationChecksInOrder : Obligations.CompensationChecksInOrder := by
  intro s
  obtain ⟨-, hpOperand, hpOrder⟩ := checksInOrder_compp s
  obtain ⟨-, hhOperand, hhOrder⟩ := checksInOrder_comph s
  exact ⟨exec_comp_of_not_calv,
    fun hc => ⟨exec_compt_of_not_avt hc, hpOperand hc, hhOperand hc, hpOrder hc, hhOrder hc⟩⟩

/-- Settles O22: the named values are those of `tempSteps`, step for step. `t1` stays a name: `subst` would evaluate
the wrapped multiple of a natural number. -/
theorem comptComputesTheTemperature : Obligations.ComptComputesTheTemperature := by
  refine ⟨rfl, fun s => ⟨fun hc => (exec_comp_of_not_calv hc).1, exec_compt_of_not_avt⟩, ?_⟩
  rintro s _ t1 _ _ _ _ _ _ _ _ _ _ _ _ _ _ _ _ _ ovf hc ha rfl ht1 rfl rfl rfl rfl rfl rfl rfl rfl rfl rfl rfl rfl
    rfl rfl rfl rfl rfl hovf
  have htemp : s.ce.temperature = tempSteps s.ce.adcT.toInt t1 s.ce.cal.digT2.toInt s.ce.cal.digT3.toInt := by
    rw [Block.temperature, ht1]
  obtain rfl : s.ce.temperature.ovf = ovf := by
    rw [Bool.eq_iff_iff, hovf, htemp, tempSteps]
    simp only [anyWraps_cons_iff, anyWraps_nil_iff, or_false]
    rfl
  rw [exec_compt_of_ready hc ha, Block.storeTemperature, htemp]
  rfl

/-- Settles O23: the named values are those of `pressFront` and `pressBack`, and the denominator decides between the
sentinel and the quotient. -/
theorem comppComputesThePressure : Obligations.ComppComputesThePressure := by
  refine ⟨rfl, checksInOrder_compp, fun s v2 o ovf => exec_compp_of_zero_pressureDenominator, ?_⟩
  intro s v2 den p5 o1 o2 ovf hc ha ht hfront hne hback hovf
  obtain ⟨rfl, rfl, ho1⟩ := pressureFront_of_pressureDenominator hfront
  obtain ⟨rfl, ho2⟩ := pressureBack_of_pressureQuotient hback
  obtain rfl : s.ce.pressure.ovf = ovf := by
    rw [Bool.eq_iff_iff, hovf, Block.pressure_of_den_ne_zero hne]
    simp [ho1, ho2, or_assoc]
  rw [← ofInt32_eq_ofNat_emod, exec_compp_of_ready hc ha ht, Block.storePressure, Block.pressure_of_den_ne_zero hne]
  rfl

/-- Settles O24: a zero denominator gives the sentinel, and `dig_P1 = 0` gives a zero denominator. -/
theorem pressureSentinel : Obligations.PressureSentinel := by
  refine ⟨fun s v2 o ovf => exec_compp_of_zero_pressureDenominator, fun q10 => asr_eq_zero_iff q10 33, ?_⟩
  intro s hc ha ht hP1
  have hden := Block.pressureFront_den_of_digP1_eq_zero hP1
  exact ⟨_, exec_compp_of_den_eq_zero hc ha ht hden, rfl, rfl, completed_answered_compCode ..⟩

/-- Settles O25: the named values are those of `humSteps`, step for step. -/
theorem comphComputesTheHumidity : Obligations.ComphComputesTheHumidity := by
  refine ⟨rfl, checksInOrder_comph, ?_⟩
  rintro s _ _ _ _ _ _ _ _ _ _ _ _ _ _ _ _ _ _ _ _ _ _ _ _ _ _ _ _ _ _ _ _ _ _ _ _ ovf hc ha ht rfl rfl rfl rfl rfl
    rfl rfl rfl rfl rfl rfl rfl rfl rfl rfl rfl rfl rfl rfl rfl rfl rfl rfl rfl rfl rfl rfl rfl rfl rfl rfl rfl rfl
    rfl rfl rfl hovf
  obtain rfl : s.ce.humidity.ovf = ovf := by
    rw [Bool.eq_iff_iff, hovf, Block.humidity, humSteps]
    simp only [anyWraps_cons_iff, anyWraps_nil_iff, or_false]
    rfl
  exact exec_comph_of_ready hc ha ht

/-- Settles O26: the clamp bounds the value, and the register takes it as it is. -/
theorem humidityStaysInRange : Obligations.HumidityStaysInRange := by
  refine ⟨humidity_val_mem, fun s t h hc => ?_⟩
  cases exec_effect h with
  | fault _ f _ => exact absurd hc (not_completed_raise s f)
  | comph _ _ _ => exact hOut_toNat_le s.ce

/-- Settles O27: a 20-bit raw code is non-negative as a signed word, so the bounds are those of `tempSteps`. -/
theorem smallTrimsDoNotOverflow : Obligations.SmallTrimsDoNotOverflow := by
  intro b hadc ht2lo ht2hi ht3lo ht3hi hdlo hdhi
  have hval : b.adcT.toInt = b.adcT.toNat := BitVec.toInt_eq_toNat_of_lt (by omega)
  have ht1 := b.cal.digT1.isLt
  rw [Block.temperature, hval]
  exact tempSteps_ovf_eq_false (by omega) (by omega) (by omega) (by omega) (by omega)

/-- Settles O31: none of the three writes a register it reads, so the repetition finds its own results in place. -/
theorem repeatedCompensationIsIdempotent : Obligations.RepeatedCompensationIsIdempotent := by
  intro i s t hi h hcompleted
  cases exec_effect h with
  | fault _ f _ => exact absurd hcompleted (not_completed_raise s f)
  | compt hc ha =>
    exact Eq.trans (exec_compt_of_ready hc ha) (congrArg _ (s.completeComp_completeComp s.ce.storeTemperature ..))
  | compp hc ha ht =>
    exact Eq.trans (exec_compp_of_ready hc ha ht) (congrArg _ (s.completeComp_completeComp s.ce.storePressure ..))
  | comph hc ha ht =>
    exact Eq.trans (exec_comph_of_ready hc ha ht) (congrArg _ (s.completeComp_completeComp s.ce.storeHumidity ..))
  | _ => simp at hi

end Sys2Proof.Machine
end

section
/-!
Proofs. The read-out commands (43_readout R180 to R183): what `RDR` answers on each side of the selected
register's valid bit, and the coefficient `RDC` reads as a number.
-/

namespace Sys2Proof.Machine

open Sys2Proof.Safety Sys2Proof.Claims

/-! ### `RDR` on each side of the register's valid bit (R180) -/

/-- R180: the fault of a selected register that holds no value. `STATUS` always holds one. -/
def notValidFault : RdrSel → CeFault
  | .tOut | .pOut | .hOut | .tFine | .status => .resultNotValid
  | .adcT | .adcP | .adcH => .operandNotValid

theorem Block.rdrCheck_eq (b : Block) (sel : RdrSel) :
    b.status.rdrCheck sel = if (Register.selected sel).isValid b then none else some (notValidFault sel) := by
  cases sel <;> rfl

section Rdr

variable {s : State} {sel : RdrSel}

theorem exec_rdr_of_valid (h : (Register.selected sel).isValid s.ce = true) :
    exec (.rdr sel) s = .next (answered s s.ce 0x00#8 (s.ce.selected sel)) := by
  simp only [exec, execRdr, s.ce.rdrCheck_eq, h]
  rfl

theorem exec_rdr_of_not_valid (h : (Register.selected sel).isValid s.ce = false) :
    exec (.rdr sel) s = .next (faulted s (notValidFault sel).code) := by
  simp only [exec, execRdr, s.ce.rdrCheck_eq, h]
  rfl

end Rdr

/-! ### The coefficient `RDC` reads (R182) -/

/-- Zero extension, as the number it keeps; sign extension is such an equation by definition. -/
theorem setWidth_eq_ofInt_toNat {n : Nat} (x : BitVec n) : x.setWidth 32 = BitVec.ofInt 32 x.toNat := by
  rw [BitVec.ofInt_natCast, BitVec.ofNat_toNat]

/-- The four unsigned coefficients, then the fourteen signed ones. -/
theorem Calib.read_eq_coefficient (c : Calib) {k : Nat} (hk : k ≤ 17) :
    c.read k = some (BitVec.ofInt 32 (coefficient c k)) := by
  match k, hk with
  | 0, _ | 3, _ | 12, _ | 14, _ => exact congrArg some (setWidth_eq_ofInt_toNat _)
  | 1, _ | 2, _ | 4, _ | 5, _ | 6, _ | 7, _ | 8, _ | 9, _ | 10, _ | 11, _ | 13, _ | 15, _ | 16, _ | 17, _ => rfl
  | _ + 18, hk => omega

section Rdc

variable {s : State} {k : BitVec 5}

theorem exec_rdc_of_calv (hk : k.toNat ≤ 17) (hc : s.ce.status.calv = true) :
    exec (.rdc k) s = .next (answered s s.ce 0x00#8 (BitVec.ofInt 32 (coefficient s.ce.cal k.toNat))) := by
  simp only [exec, execRdc, Calib.read_eq_coefficient _ hk, hc]
  rfl

theorem exec_rdc_of_not_calv (hk : k.toNat ≤ 17) (hc : s.ce.status.calv = false) :
    exec (.rdc k) s = .next (faulted s 0x13#8) := by
  simp only [exec, execRdc, Calib.read_eq_coefficient _ hk, hc]
  rfl

end Rdc

/-! ### The statements -/

/-- Settles O33: the register's valid bit decides between its value and its fault; the words are computed, and R88
lists the illegal ones. -/
theorem rdrReadsTheSelectedRegister : Obligations.RdrReadsTheSelectedRegister := by
  refine ⟨fun sel s => ?_, fun s => ?_, rfl, fun w hop hfield => (decode_error_iff w).2 ?_⟩
  · refine ⟨?_, ?_, ?_, ?_, ?_, ?_, ?_, ?_⟩ <;> rintro rfl
    case refine_5 => exact exec_rdr_of_valid rfl
    all_goals exact fun hvalid => exec_rdr_of_valid hvalid
  · refine ⟨fun h => ⟨?_, ?_⟩, fun h => ?_, fun h => ?_, fun h => ?_, fun h => ?_, fun h => ?_⟩
    all_goals exact exec_rdr_of_not_valid h
  · exact .inr (.inr (.inr (.inr (.inr (.inr (.inl ⟨hop, hfield⟩))))))

/-- Settles O35: every index up to 17 has its coefficient, and `CALV` decides whether it is answered; R88 lists the
words with a bit above the index, and the decoder's own test refuses an index above 17. -/
theorem rdcReadsTheCoefficient : Obligations.RdcReadsTheCoefficient := by
  refine ⟨fun w hop hfield => (decode_error_iff w).2 ?_,
    fun k s => ⟨?_, exec_rdc_of_calv, exec_rdc_of_not_calv, fun hk => ?_⟩⟩
  · exact .inr (.inr (.inr (.inr (.inr (.inr (.inr ⟨hop, .inl hfield⟩))))))
  · simp only [encode, toNat_append_eq_add, BitVec.toNat_ofNat]
    omega
  · exact ⟨_, (decode_encode_rdc k).trans (if_neg (Nat.not_le.2 hk))⟩

/-- Settles O36: a read-out ends in a fault, which records its code, or in a completion with the block as it was. -/
theorem readOutsChangeOnlyFlt : Obligations.ReadOutsChangeOnlyFlt := by
  intro i s t hi h
  cases exec_effect h with
  | fault _ f _ => exact ⟨rfl, fun hc => absurd hc (not_completed_raise s f)⟩
  | rdr _ _ | rdc _ _ => exact ⟨rfl, fun _ => rfl⟩
  | _ => simp at hi

end Sys2Proof.Machine
end

section
/-!
Proofs. The host agent (50_host_environment R192 to R215): what each register operation comes to under each of its
guards, the frames and command lists it makes entry by entry, and the statements on its calls that follow.
-/

namespace Sys2Proof.Machine

open Sys2Proof.Claims

/-! ### One move of the host -/

theorem step_of_hostMoves {s : State} (h : hostMoves s) : step s = .next s.driverStep := by
  obtain ⟨hreset, hcmds⟩ := h
  exact step_of_cmds_nil hreset hcmds

theorem step_of_call {s : State} {c : Call} {rest : List Call} (h : hostMoves s) (hproc : s.drv.proc = .idle)
    (hcalls : s.drv.calls = c :: rest) : step s = .next (s.startCall c rest) := by
  simp only [step_of_hostMoves h, State.driverStep, hproc, hcalls]

theorem hostMoves_transferred {s : State} (h : hostMoves s) (line : Line) (sent : List Byte) (n : Nat)
    (more : List (List Byte)) : hostMoves (transferred s line sent n more) := h

/-- With nothing at the port, the commands issued are the ones waiting there. -/
theorem State.issue_of_hostMoves {s : State} (h : hostMoves s) (is : List Instr) :
    s.issue is = { s with cmds := is.map encode } := by
  obtain ⟨-, hcmds⟩ := h
  simp only [State.issue, hcmds, List.nil_append]

/-- R200: a failure of `init` puts one word at the port, that of `SRST`. -/
theorem State.failInit_of_hostMoves {s : State} (h : hostMoves s) (e : HostError) :
    s.failInit e = ended { s with cmds := [0x0F000000#32] } (.failed e) := by
  rw [State.failInit, State.issue_of_hostMoves h]
  rfl

/-! ### The register operations (R192 to R194) -/

section RegisterOperations

variable {s : State} {line : Line} {register : Byte} {rx : List Byte} {more : List (List Byte)}

theorem State.hostRead_of_unselected (h : s.drv.line = none) (count : Nat) :
    s.hostRead register count = .fails .notInitialized := by
  simp only [State.hostRead, h]

theorem State.hostRead_of_too_long {count : Nat} (hline : s.drv.line = some line) (h : s.params.maxFrame < count) :
    s.hostRead register count = .fails .invalidLength := by
  simp only [State.hostRead, hline, if_pos h]

theorem State.hostRead_of_delivery {count : Nat} (hline : s.drv.line = some line) (h : count ≤ s.params.maxFrame)
    (hin : s.drv.inbox = rx :: more) :
    s.hostRead register count = .done ((rx.take (count + 1)).drop 1)
      (transferred s line [register ||| 0x80#8] (count + 1) more) := by
  simp only [State.hostRead, hline, if_neg (Nat.not_lt.2 h), State.transfer, hin, transferred]

theorem State.hostWrite_of_unselected (h : s.drv.line = none) (data : List Byte) :
    s.hostWrite register data = .fails .notInitialized := by
  simp only [State.hostWrite, h]

theorem State.hostWrite_of_too_long {data : List Byte} (hline : s.drv.line = some line)
    (h : s.params.bufSize < data.length) : s.hostWrite register data = .fails .invalidLength := by
  simp only [State.hostWrite, hline, if_pos h]

theorem State.hostWrite_of_delivery {data : List Byte} (hline : s.drv.line = some line)
    (h : data.length ≤ s.params.bufSize) (hin : s.drv.inbox = rx :: more) :
    s.hostWrite register data = .done (writtenCount (rx.take (2 * data.length)).length data.length)
      (transferred s line (writeFrame register data) (2 * data.length) more) := by
  simp only [State.hostWrite, hline, if_neg (Nat.not_lt.2 h), State.transfer, hin, transferred]

end RegisterOperations

/-! ### The application's register calls (R193, R194) -/

section RegisterCalls

variable {s t : State} {rest : List Call} {register : Byte} {e : HostError}

theorem State.startCall_read_of_fails {count : Nat}
    (h : State.hostRead { s with drv := { s.drv with calls := rest } } register count = .fails e) :
    s.startCall (.read register count) rest = ended { s with drv := { s.drv with calls := rest } } (.failed e) := by
  simp only [State.startCall, h]
  rfl

theorem State.startCall_read_of_done {count : Nat} {data : List Byte}
    (h : State.hostRead { s with drv := { s.drv with calls := rest } } register count = .done data t) :
    s.startCall (.read register count) rest = ended t (.bytes data) := by
  simp only [State.startCall, h]
  rfl

theorem State.startCall_write_of_fails {data : List Byte}
    (h : State.hostWrite { s with drv := { s.drv with calls := rest } } register data = .fails e) :
    s.startCall (.write register data) rest = ended { s with drv := { s.drv with calls := rest } } (.failed e) := by
  simp only [State.startCall, h]
  rfl

theorem State.startCall_write_of_done {data : List Byte} {n : Nat}
    (h : State.hostWrite { s with drv := { s.drv with calls := rest } } register data = .done n t) :
    s.startCall (.write register data) rest = ended t (.written n) := by
  simp only [State.startCall, h]
  rfl

end RegisterCalls

/-! ### The bytes a read obtains (R193) -/

section Received

variable {rx : List Byte} {n : Nat}

theorem received_length_eq_iff : ((rx.take (n + 1)).drop 1).length = n ↔ n + 1 ≤ rx.length ∨ n = 0 := by
  simp only [List.length_drop, List.length_take]
  omega

theorem received_getElem? {i : Nat} (hi : i < n) : ((rx.take (n + 1)).drop 1)[i]? = rx[i + 1]? := by
  rw [List.getElem?_drop, List.getElem?_take, if_pos (by omega), Nat.add_comm]

theorem received_one (h : 1 < rx.length) : (rx.take 2).drop 1 = [rx[1]] := by
  rw [List.drop_take, List.drop_eq_getElem_cons h]
  rfl

theorem received_one_of_short (h : rx.length < 2) : (rx.take 2).drop 1 = [] :=
  List.drop_eq_nil_of_le (by rw [List.length_take]; omega)

end Received

/-! ### The frame of `write` (R194) and the `WRB` commands (R93), entry by entry -/

theorem writeFrame_length (register : Byte) (data : List Byte) :
    (writeFrame register data).length = 2 * data.length := by
  induction data generalizing register with
  | nil => rfl
  | cons b rest ih => simp only [writeFrame, List.length_cons, ih]; omega

theorem ofNat_succ_eq_one_add (i : Nat) : BitVec.ofNat 8 (i + 1) = 1#8 + BitVec.ofNat 8 i := by
  rw [Nat.add_comm, BitVec.ofNat_add]

theorem writeFrame_getElem? (register : Byte) (data : List Byte) (i : Nat) (h : i < data.length) :
    (writeFrame register data)[2 * i]? = some ((register + BitVec.ofNat 8 i) &&& 0x7F#8) ∧
      (writeFrame register data)[2 * i + 1]? = some data[i] := by
  induction data generalizing register i with
  | nil => simp at h
  | cons b rest ih =>
    cases i with
    | zero => simp [writeFrame]
    | succ i =>
      rw [ofNat_succ_eq_one_add, ← BitVec.add_assoc]
      exact ih (register + 1#8) i (Nat.lt_of_succ_lt_succ h)

theorem writeImage_length (base : Byte) (bytes : List Byte) : (writeImage base bytes).length = bytes.length := by
  induction bytes generalizing base with
  | nil => rfl
  | cons b rest ih => simp only [writeImage, List.length_cons, ih]

theorem writeImage_getElem? (base : Nat) (bytes : List Byte) (i : Nat) :
    (writeImage (BitVec.ofNat 8 base) bytes)[i]? = bytes[i]?.map (.wrb (BitVec.ofNat 8 (base + i))) := by
  induction bytes generalizing base i with
  | nil => rfl
  | cons b rest ih =>
    cases i with
    | zero => rfl
    | succ i =>
      rw [writeImage, List.getElem?_cons_succ, List.getElem?_cons_succ, ← BitVec.ofNat_add, ih,
        show base + (i + 1) = base + 1 + i by omega]

/-! The words of the `WRB` commands for the bytes a read obtained. -/

theorem writeImage_received_length {rx : List Byte} {n : Nat} (base : Byte) (h : n + 1 ≤ rx.length) :
    ((writeImage base ((rx.take (n + 1)).drop 1)).map encode).length = n := by
  rw [List.length_map, writeImage_length]
  exact received_length_eq_iff.2 (.inl h)

theorem writeImage_received_getElem? {rx : List Byte} {n i : Nat} (base : Nat) (hi : i < n) (h : i + 1 < rx.length) :
    ((writeImage (BitVec.ofNat 8 base) ((rx.take (n + 1)).drop 1)).map encode)[i]? =
      some (encode (.wrb (BitVec.ofNat 8 (base + i)) rx[i + 1])) := by
  rw [List.getElem?_map, writeImage_getElem?, received_getElem? hi, List.getElem?_eq_getElem h]
  rfl

/-! ### The answer awaited (R213) -/

/-- R91: the code of a completion is one whose high nibble is 0. -/
theorem State.completedValue_of_code_lt {s : State} {code : BitVec 8} {v : Word} (hresp : s.resp = some ⟨code, v⟩)
    (hcode : code.toNat < 16) : s.completedValue = some v := by
  have hnibble : code.extractLsb' 4 4 = 0#4 := by
    apply BitVec.eq_of_toNat_eq
    rw [BitVec.extractLsb'_toNat, Nat.shiftRight_eq_div_pow, Nat.div_eq_of_lt hcode]
    rfl
  simp only [State.completedValue, hresp, if_pos hnibble]

/-! ### The statements -/

/-- Settles O51: an idle host starts the call, and `hostRead` takes its guards in order. -/
theorem hostReadFollowsItsSteps : Obligations.HostReadFollowsItsSteps := by
  intro s register count rest hm hproc hcalls s'
  rw [step_of_call hm hproc hcalls]
  refine ⟨fun hline => ?_, fun line hline => ⟨fun hlong => ?_, fun rx more hmax hin => ⟨?_, List.length_drop⟩⟩⟩
  · exact congrArg _ (State.startCall_read_of_fails (State.hostRead_of_unselected (s := s') hline count))
  · exact congrArg _ (State.startCall_read_of_fails (State.hostRead_of_too_long hline hlong))
  · exact congrArg _ (State.startCall_read_of_done (State.hostRead_of_delivery hline hmax hin))

/-- Settles O52: the same shape with `hostWrite`; `writtenCount_cases` bounds the count. -/
theorem hostWriteFollowsItsSteps : Obligations.HostWriteFollowsItsSteps := by
  intro s register data rest hm hproc hcalls s'
  rw [step_of_call hm hproc hcalls]
  refine ⟨fun hline => ?_, fun line hline => ⟨fun hlong => ?_, fun rx more hmax hin =>
    ⟨writeFrame register data, writtenCount (rx.take (2 * data.length)).length data.length,
      writeFrame_length register data, writeFrame_getElem? register data, ?_⟩⟩⟩
  · exact congrArg _ (State.startCall_write_of_fails (State.hostWrite_of_unselected (s := s') hline data))
  · exact congrArg _ (State.startCall_write_of_fails (State.hostWrite_of_too_long hline hlong))
  · have hcount := writtenCount_cases (rx.take (2 * data.length)).length data.length
    have hmoved : (rx.take (2 * data.length)).length = min (2 * data.length) rx.length := List.length_take
    refine ⟨by omega, by omega, by omega, ?_,
      congrArg _ (State.startCall_write_of_done (State.hostWrite_of_delivery hline hmax hin))⟩
    rintro rfl
    rw [List.length_nil] at hmoved
    omega

/-- Settles O53: the selector decides the first move, the byte read the second. -/
theorem initChecksTheIdentification : Obligations.InitChecksTheIdentification := by
  refine ⟨fun s sel rest hm hproc hcalls => ?_, fun s line rx more hm hproc hline hin hmax => ?_⟩
  · rw [step_of_call hm hproc hcalls]
    refine ⟨fun hsel => ?_, ?_, ?_⟩
    · rw [State.startCall, if_neg (by omega), if_neg (by omega)]
      rfl
    · rintro rfl
      rfl
    · rintro rfl
      rfl
  · have hread := State.hostRead_of_delivery (register := s.params.addrId) hline hmax hin
    simp only [step_of_hostMoves hm, State.driverStep, hproc, State.stepInitId, hread]
    refine ⟨fun hid => ?_, fun hid => ?_⟩
    · rw [if_pos hid]
      rfl
    · rw [if_neg hid, State.failInit_of_hostMoves (hostMoves_transferred hm _ _ _ _)]

/-- Settles O54: each read's length decides, and the bytes after the header become the `WRB` words. -/
theorem initLoadsTheImage : Obligations.InitLoadsTheImage := by
  intro s line rx more hm hline hin hmax
  have hmt := hostMoves_transferred hm line
  refine ⟨fun hproc => ?_, fun hproc => ?_, fun h1 hproc => ?_⟩
  · have hread := State.hostRead_of_delivery (register := s.params.addrCalTp) hline hmax hin
    simp only [step_of_hostMoves hm, State.driverStep, hproc, State.stepInitCalTp, hread]
    refine ⟨fun hlen => ?_, fun hlen => ?_⟩
    · rw [if_pos (received_length_eq_iff.2 (.inl hlen)), State.issue_of_hostMoves (hmt _ _ _)]
      refine ⟨_, rfl, writeImage_received_length 0#8 hlen, fun i h hi => ?_⟩
      rw [writeImage_received_getElem? 0 hi h, Nat.zero_add]
    · rw [if_neg (mt received_length_eq_iff.1 (by omega)), State.failInit_of_hostMoves (hmt _ _ _)]
  · have hread := State.hostRead_of_delivery (register := s.params.addrCalH1) (count := 1) hline (by omega) hin
    simp only [step_of_hostMoves hm, State.driverStep, hproc, State.stepInitCalH1, hread]
    refine ⟨fun h => ?_, fun hlen => ?_⟩
    · rw [received_one h]
      rfl
    · rw [received_one_of_short hlen, ← State.failInit_of_hostMoves (hmt _ _ _)]
  · have hread := State.hostRead_of_delivery (register := s.params.addrCalH2) (count := 7) hline (by omega) hin
    simp only [step_of_hostMoves hm, State.driverStep, hproc, State.stepInitCalH2, hread]
    refine ⟨fun hlen => ?_, fun hlen => ?_⟩
    · have hlength := writeImage_received_length (n := 7) 25#8 hlen
      rw [if_pos (received_length_eq_iff.2 (.inl hlen)), State.issue_of_hostMoves (hmt _ _ _),
        List.cons_append, List.map_cons, List.map_append]
      refine ⟨_, rfl, ?_, rfl, ?_, fun i h hi => ?_⟩
      · rw [List.length_cons, List.length_append, hlength]
        rfl
      · rw [List.getElem?_cons_succ, List.getElem?_append_right hlength.le, hlength]
        rfl
      · rw [List.getElem?_cons_succ, List.getElem?_append_left (by omega), writeImage_received_getElem? 25 hi h]
    · rw [if_neg (mt received_length_eq_iff.1 (by omega)), State.failInit_of_hostMoves (hmt _ _ _)]

/-- Settles O55: the last response decides whether the pair goes out, the bytes moved whether it counts as written. -/
theorem initWritesTheControlByte : Obligations.InitWritesTheControlByte := by
  refine ⟨fun s hm hproc hresp => ?_, fun s line rx more v hm hproc hresp hline hin hmax => ?_⟩
  · have hok : ¬ s.sawOk = true := fun h => by
      obtain ⟨v, hv⟩ := s.sawOk_iff.1 h
      exact hresp v hv
    simp only [step_of_hostMoves hm, State.driverStep, hproc, State.stepInitCtrl, if_neg hok,
      State.failInit_of_hostMoves hm]
  · have hwrite : s.hostWrite s.params.addrCtrl [s.params.ctrlByte] = .done (writtenCount (rx.take 2).length 1)
        (transferred s line [s.params.addrCtrl &&& 0x7F#8, s.params.ctrlByte] 2 more) :=
      State.hostWrite_of_delivery hline hmax hin
    have hcount := writtenCount_cases (rx.take 2).length 1
    have hmoved : (rx.take 2).length = min 2 rx.length := List.length_take
    simp only [step_of_hostMoves hm, State.driverStep, hproc, State.stepInitCtrl, if_pos (s.sawOk_iff.2 ⟨v, hresp⟩),
      hwrite]
    refine ⟨fun hlen => ?_, fun hlen => ?_⟩
    · rw [if_neg (by omega)]
      rfl
    · rw [if_pos (by omega), State.failInit_of_hostMoves (hostMoves_transferred hm _ _ _ _)]

/-- Settles O56: the bound is tested first, then the byte read decides where the host goes on. -/
theorem sensorsArePolledUntilReady : Obligations.SensorsArePolledUntilReady := by
  intro s polls hm hproc
  refine ⟨fun m hpoll hle => ?_, fun line rx more hline hin hpoll hmax => ?_⟩
  · simp only [step_of_hostMoves hm, State.driverStep, hproc, State.stepPoll, hpoll, Option.any_some,
      decide_eq_true hle, if_true]
    rfl
  · have hread := State.hostRead_of_delivery (register := s.params.addrStatus) hline hmax hin
    have hbound : ¬ s.params.pollMax.any (· ≤ polls) = true := by
      simpa only [Option.any_eq_true, decide_eq_true_eq, not_exists, not_and, Nat.not_le] using hpoll
    simp only [step_of_hostMoves hm, State.driverStep, hproc, State.stepPoll, if_neg hbound, hread]
    refine ⟨fun hlen => ?_, fun h => ?_⟩
    · rw [received_one_of_short hlen]
      rfl
    · rw [received_one h]
      refine ⟨fun hbit => ?_, fun hbit => ?_⟩
      · simp only [hbit, if_true]
        rfl
      · simp only [hbit]
        rfl

/-- Settles O57: the burst's length decides first, then the attempts that are left. -/
theorem burstIsRetriedThenExhausted : Obligations.BurstIsRetriedThenExhausted := by
  intro s failed line rx more hm hproc hline hin hmax
  have hread := State.hostRead_of_delivery (register := s.params.addrData) hline hmax hin
  simp only [step_of_hostMoves hm, State.driverStep, hproc, State.stepBurst, hread]
  refine ⟨fun hlen => ?_, fun hlen hleft => ?_, fun hlen hnone => ?_⟩
  · have hlength := writeImage_received_length (n := 8) 32#8 hlen
    rw [if_pos (received_length_eq_iff.2 (.inl hlen)), State.issue_of_hostMoves (hostMoves_transferred hm _ _ _ _),
      ldburst, List.append_assoc, List.map_append]
    refine ⟨_, rfl, ?_, ?_, ?_, fun i h hi => ?_⟩
    · rw [List.length_append, hlength]
      rfl
    · rw [List.getElem?_append_right hlength.le, hlength]
      rfl
    · rw [List.getElem?_append_right (by omega), hlength]
      rfl
    · rw [List.getElem?_append_left (by omega), writeImage_received_getElem? 32 hi h]
  · rw [if_neg (mt received_length_eq_iff.1 (by omega)), if_neg (Nat.not_le.2 hleft)]
    rfl
  · rw [if_neg (mt received_length_eq_iff.1 (by omega)), if_pos hnone]
    rfl

/-- Settles O58: each position awaits the value of a completion and issues the next command, or gives the reading. -/
theorem compensationsFollowInOrder : Obligations.CompensationsFollowInOrder := by
  intro s code v hm hresp hcode
  have hvalue := State.completedValue_of_code_lt hresp hcode
  refine ⟨fun hproc => ?_, fun t hproc => ?_, fun t p hproc => ?_⟩
  · simp only [step_of_hostMoves hm, State.driverStep, hproc, State.stepAwait, hvalue, State.issue_of_hostMoves hm]
    rfl
  · simp only [step_of_hostMoves hm, State.driverStep, hproc, State.stepAwait, hvalue, State.issue_of_hostMoves hm]
    rfl
  · simp only [step_of_hostMoves hm, State.driverStep, hproc, State.stepAwait, hvalue]
    rfl

end Sys2Proof.Machine
end

section
/-!
Proofs. The floating-point boundary of the host (50_host_environment R215, R216): the division by a power of two
rounds nothing away.
-/

namespace Sys2Proof.Machine

open Sys2Proof.Config

/-! ### Rounding a fraction `c * 2^j / 2^k` whose significand `c` fits -/

/-- A whole multiple of the denominator is not rounded. -/
theorem roundEven_mul_right (m : Nat) {d : Nat} (hd : 0 < d) : roundEven (m * d) d = m := by
  rw [roundEven, Nat.mul_mod_left, Nat.mul_div_cancel m hd, if_pos hd]

theorem log2_mul_two_pow {c : Nat} (hc : 0 < c) (j : Nat) : (c * 2 ^ j).log2 = c.log2 + j := by
  have hlo := Nat.mul_le_mul_right (2 ^ j) (Nat.log2_self_le hc.ne')
  have hhi := Nat.mul_lt_mul_of_pos_right (Nat.lt_log2_self (n := c)) (Nat.two_pow_pos j)
  rw [← Nat.pow_add] at hlo hhi
  exact (Nat.log2_eq_iff (by positivity)).2 ⟨hlo, by rwa [Nat.add_right_comm]⟩

theorem two_pow_le_mul_two_pow_sub_log2 {p c : Nat} (hc : 0 < c) (hp : c.log2 ≤ p) : 2 ^ p ≤ c * 2 ^ (p - c.log2) :=
  calc 2 ^ p = 2 ^ c.log2 * 2 ^ (p - c.log2) := by rw [← Nat.pow_add, Nat.add_sub_cancel' hp]
    _ ≤ c * 2 ^ (p - c.log2) := Nat.mul_le_mul_right _ (Nat.log2_self_le hc.ne')

/-- The scale that `roundFrac` tries first makes the fraction a natural: `c` shifted up to `p + 1` bits. -/
theorem scaleFrac_dyadic {p c : Nat} (j k : Nat) (hp : c.log2 ≤ p) :
    ∃ d, 0 < d ∧ scaleFrac (c * 2 ^ j) (2 ^ k) ((c.log2 : Int) + j - k - p) = (c * 2 ^ (p - c.log2) * d, d) := by
  refine ⟨2 ^ k * 2 ^ ((c.log2 : Int) + j - k - p).toNat, by positivity, Prod.ext ?_ rfl⟩
  simp only [scaleFrac, Nat.mul_assoc, ← Nat.pow_add]
  congr 2
  omega

/-- A significand of at most `p + 1` bits keeps its value. -/
theorem roundFrac_dyadic {p c : Nat} (j k : Nat) (hc : 0 < c) (hp : c.log2 ≤ p) :
    roundFrac (p + 1) (c * 2 ^ j) (2 ^ k) = (c * 2 ^ (p - c.log2), (c.log2 : Int) + j - k - p) := by
  obtain ⟨d, hd, hscale⟩ := scaleFrac_dyadic j k hp
  have he : (((c * 2 ^ j).log2 : Int) - (2 ^ k : Nat).log2 - ((p + 1 : Nat) - 1)) = (c.log2 : Int) + j - k - p := by
    rw [log2_mul_two_pow hc, Nat.log2_two_pow]
    omega
  have hfull : ¬ c * 2 ^ (p - c.log2) * d < d * 2 ^ p := by
    rw [Nat.mul_comm d]
    exact Nat.not_lt.2 (Nat.mul_le_mul_right d (two_pow_le_mul_two_pow_sub_log2 hc hp))
  simp only [roundFrac, if_neg (show c * 2 ^ j ≠ 0 by positivity), he, hscale, Nat.add_sub_cancel, if_neg hfull,
    roundEven_mul_right _ hd]

/-! ### Conversion, and division by a power of two (R215) -/

section Conversions

variable {fmt : FloatFmt} {p n : Nat}

theorem cvt_mul_two_pow (hfmt : FloatFmt.precision fmt = p + 1) (hn : 0 < n) (hp : n.log2 ≤ p) (j : Nat) :
    cvt fmt (n * 2 ^ j : Nat) = ⟨false, n * 2 ^ (p - n.log2), (n.log2 : Int) + j - p⟩ := by
  have hround : roundFrac (p + 1) (n * 2 ^ j) 1 = _ := roundFrac_dyadic j 0 hn hp
  have hsign : decide (((n * 2 ^ j : Nat) : Int) < 0) = false := decide_eq_false (by omega)
  simp only [cvt, hfmt, Int.natAbs_natCast, hround, hsign, Nat.cast_zero, Int.sub_zero]

theorem cvt_of_log2_le (hfmt : FloatFmt.precision fmt = p + 1) (hn : 0 < n) (hp : n.log2 ≤ p) :
    cvt fmt n = ⟨false, n * 2 ^ (p - n.log2), (n.log2 : Int) - p⟩ := by
  simpa using cvt_mul_two_pow hfmt hn hp 0

theorem cvt_two_pow (hfmt : FloatFmt.precision fmt = p + 1) (q : Nat) :
    cvt fmt (2 ^ q : Nat) = ⟨false, 2 ^ p, (q : Int) - p⟩ := by
  have hlog : Nat.log2 1 = 0 := Nat.log2_two_pow (n := 0)
  simpa [hlog] using cvt_mul_two_pow hfmt Nat.one_pos (hlog.trans_le p.zero_le) q

/-- The quotient by `2^q` is the converted dividend with its exponent lowered by `q`. -/
theorem fdiv_cvt_two_pow (hfmt : FloatFmt.precision fmt = p + 1) (hn : 0 < n) (hp : n.log2 ≤ p) (q : Nat) :
    fdiv fmt (cvt fmt n) (cvt fmt (2 ^ q : Nat)) = ⟨false, n * 2 ^ (p - n.log2), (n.log2 : Int) - p - q⟩ := by
  have hscale : scaleFrac (n * 2 ^ (p - n.log2)) (2 ^ p) ((q : Int) - p - (n.log2 - p)) =
      (n * 2 ^ (p - n.log2 + (n.log2 - q)), 2 ^ (p + (q - n.log2))) := by
    rw [scaleFrac, Nat.mul_assoc, ← Nat.pow_add, ← Nat.pow_add]
    congr 4 <;> omega
  rw [cvt_of_log2_le hfmt hn hp, cvt_two_pow hfmt]
  simp only [fdiv, hfmt, hscale, roundFrac_dyadic _ _ hn hp, Bool.bne_false, HostFloat.mk.injEq, true_and]
  omega

theorem fdiv_cvt_zero (d : Nat) : fdiv fmt (cvt fmt (0 : Nat)) (cvt fmt d) = ⟨false, 0, 0⟩ := by
  have hsign : decide ((d : Int) < 0) = false := decide_eq_false (by omega)
  simp [fdiv, cvt, scaleFrac, roundFrac, hsign]

/-- From R216: a natural that fits the significand, divided by a power of two, gives exactly its quotient. -/
theorem fdiv_cvt_two_pow_exact (hfmt : FloatFmt.precision fmt = p + 1) (hn : n < 2 ^ (p + 1)) (q : Nat) :
    ∃ m e, fdiv fmt (cvt fmt n) (cvt fmt (2 ^ q : Nat)) = ⟨false, m, e⟩ ∧ (m : ℚ) * 2 ^ e = n / 2 ^ q := by
  rcases n.eq_zero_or_pos with rfl | hpos
  · exact ⟨0, 0, fdiv_cvt_zero _, by simp⟩
  · have hp : n.log2 ≤ p := Nat.le_of_lt_succ ((Nat.log2_lt hpos.ne').2 hn)
    refine ⟨_, _, fdiv_cvt_two_pow hfmt hpos hp q, ?_⟩
    have hexp : (n.log2 : Int) - p - q = -((p - n.log2 : Nat) : Int) - q := by omega
    rw [hexp, zpow_sub₀ two_ne_zero, zpow_neg, zpow_natCast, zpow_natCast]
    push_cast
    field_simp

end Conversions

/-! ### The statement -/

/-- Settles O59: 256 and 1024 are powers of two, and a binary32 significand has 24 bits. -/
theorem powerOfTwoDivisionsAreExact : Obligations.PowerOfTwoDivisionsAreExact := by
  intro n hn p h
  obtain ⟨m, e, hp, hpvalue⟩ := fdiv_cvt_two_pow_exact (fmt := .binary32) rfl hn 8
  obtain ⟨m', e', hh, hhvalue⟩ := fdiv_cvt_two_pow_exact (fmt := .binary32) rfl hn 10
  have hp' : p = ⟨false, m, e⟩ := hp
  have hh' : h = ⟨false, m', e'⟩ := hh
  rw [hp', hh']
  exact ⟨rfl, hpvalue.trans (by norm_num), rfl, hhvalue.trans (by norm_num)⟩

end Sys2Proof.Machine
end

section
/-!
Proofs. The faults (60_exceptions R230 to R240): the cause of each fault a command raises, said once (`FaultCause`,
`exec_faults_or_completes`), and the statements on what a fault changes and on who raises `IMAGE_NOT_VALID`.
-/

namespace Sys2Proof.Machine

open Sys2Proof.Safety Sys2Proof.Claims

/-! ### The cause of every fault (R230 to R240) -/

/-- R231 to R238: the commands that raise a fault, each with the state it raises it in. The guards say R240's order: a
cause found later holds only where the earlier ones do not. The one illegal command is `RDC` with an index that the
decoder never delivers. -/
inductive FaultCause (s : State) : Instr → CeFault → Prop
  | rdcIndex {k : BitVec 5} (hk : ¬ k.toNat ≤ 17) : FaultCause s (.rdc k) .illegalCommand
  | wrbAddress {addr data : Byte} (ha : 40 ≤ addr.toNat) : FaultCause s (.wrb addr data) .addressFault
  | rdbAddress {addr : Byte} (ha : 40 ≤ addr.toNat) : FaultCause s (.rdb addr) .addressFault
  | rdbImage {addr : Byte} (ha : addr.toNat < 40) (hread : s.ce.image.read addr.toNat = none) :
      FaultCause s (.rdb addr) .imageNotValid
  | caldecImage (hv : ¬ s.ce.image.allValid 0 32 = true) : FaultCause s .caldec .imageNotValid
  | rawdecImage (hv : ¬ s.ce.image.allValid 32 8 = true) : FaultCause s .rawdec .imageNotValid
  | comptCal (hc : s.ce.status.calv = false) : FaultCause s .compt .calNotValid
  | comppCal (hc : s.ce.status.calv = false) : FaultCause s .compp .calNotValid
  | comphCal (hc : s.ce.status.calv = false) : FaultCause s .comph .calNotValid
  | rdcCal {k : BitVec 5} (hk : k.toNat ≤ 17) (hc : s.ce.status.calv = false) : FaultCause s (.rdc k) .calNotValid
  | comptOperand (hc : s.ce.status.calv = true) (ha : s.ce.status.avt = false) :
      FaultCause s .compt .operandNotValid
  | comppOperand (hc : s.ce.status.calv = true) (ha : s.ce.status.avp = false) :
      FaultCause s .compp .operandNotValid
  | comphOperand (hc : s.ce.status.calv = true) (ha : s.ce.status.avh = false) :
      FaultCause s .comph .operandNotValid
  | comppOrder (hc : s.ce.status.calv = true) (ha : s.ce.status.avp = true) (ht : s.ce.status.tfv = false) :
      FaultCause s .compp .orderViolation
  | comphOrder (hc : s.ce.status.calv = true) (ha : s.ce.status.avh = true) (ht : s.ce.status.tfv = false) :
      FaultCause s .comph .orderViolation
  | rdrRegister {sel : RdrSel} (hv : (Register.selected sel).isValid s.ce = false) :
      FaultCause s (.rdr sel) (notValidFault sel)

theorem completed_complete (s : State) (b : Block) (v : Word) : completed (s.complete b v) :=
  ⟨_, rfl, show okCode.toNat < 16 by decide⟩

theorem completed_completeComp (s : State) (b : Block) (o : Bool) (v : Word) : completed (s.completeComp b o v) :=
  completed_answered_compCode s _ o v

theorem exec_rdc_of_index_gt {k : BitVec 5} (hk : ¬ k.toNat ≤ 17) (s : State) :
    exec (.rdc k) s = .next (s.raise .illegalCommand) := by
  simp only [exec, execRdc, Calib.read_eq_none _ hk]

/-- R91, R230: a command raises a fault for which there is a cause, or it completes. -/
theorem exec_faults_or_completes (i : Instr) (s : State) :
    (∃ f, FaultCause s i f ∧ exec i s = .next (s.raise f)) ∨ ∃ t, completed t ∧ exec i s = .next t := by
  cases i with
  | nop | setadcT _ | setadcP _ | setadcH _ | srst => exact .inr ⟨_, completed_complete _ _ _, rfl⟩
  | wrb addr data =>
    rcases s.ce.memWrite_cases addr data with ⟨ha, h⟩ | ⟨_, h⟩
    · exact .inl ⟨_, .wrbAddress ha, exec_wrb_of_memWrite_error h⟩
    · exact .inr ⟨_, completed_complete _ _ _, exec_wrb_of_memWrite_ok h⟩
  | rdb addr =>
    rcases s.ce.memRead_cases addr with ⟨ha, h⟩ | ⟨ha, hread, h⟩ | ⟨_, _, _, h⟩
    · exact .inl ⟨_, .rdbAddress ha, exec_rdb_of_memRead_error h⟩
    · exact .inl ⟨_, .rdbImage ha hread, exec_rdb_of_memRead_error h⟩
    · exact .inr ⟨_, completed_complete _ _ _, exec_rdb_of_memRead_ok h⟩
  | caldec =>
    by_cases hv : s.ce.image.allValid 0 32 = true
    · exact .inr ⟨_, completed_complete _ _ _, if_pos hv⟩
    · exact .inl ⟨_, .caldecImage hv, if_neg hv⟩
  | rawdec =>
    by_cases hv : s.ce.image.allValid 32 8 = true
    · exact .inr ⟨_, completed_complete _ _ _, if_pos hv⟩
    · exact .inl ⟨_, .rawdecImage hv, if_neg hv⟩
  | compt =>
    rcases s.ce.status.compCheck_cases s.ce.status.avt true with
      ⟨hc, h⟩ | ⟨hc, ha, h⟩ | ⟨_, _, ht, _⟩ | ⟨hc, ha, _, _⟩
    · exact .inl ⟨_, .comptCal hc, exec_compt_of_fault h⟩
    · exact .inl ⟨_, .comptOperand hc ha, exec_compt_of_fault h⟩
    · cases ht
    · exact .inr ⟨_, completed_completeComp _ _ _ _, exec_compt_of_ready hc ha⟩
  | compp =>
    rcases s.ce.status.compCheck_cases s.ce.status.avp s.ce.status.tfv with
      ⟨hc, h⟩ | ⟨hc, ha, h⟩ | ⟨hc, ha, ht, h⟩ | ⟨hc, ha, ht, _⟩
    · exact .inl ⟨_, .comppCal hc, exec_compp_of_fault h⟩
    · exact .inl ⟨_, .comppOperand hc ha, exec_compp_of_fault h⟩
    · exact .inl ⟨_, .comppOrder hc ha ht, exec_compp_of_fault h⟩
    · exact .inr ⟨_, completed_completeComp _ _ _ _, exec_compp_of_ready hc ha ht⟩
  | comph =>
    rcases s.ce.status.compCheck_cases s.ce.status.avh s.ce.status.tfv with
      ⟨hc, h⟩ | ⟨hc, ha, h⟩ | ⟨hc, ha, ht, h⟩ | ⟨hc, ha, ht, _⟩
    · exact .inl ⟨_, .comphCal hc, exec_comph_of_fault h⟩
    · exact .inl ⟨_, .comphOperand hc ha, exec_comph_of_fault h⟩
    · exact .inl ⟨_, .comphOrder hc ha ht, exec_comph_of_fault h⟩
    · exact .inr ⟨_, completed_completeComp _ _ _ _, exec_comph_of_ready hc ha ht⟩
  | rdr sel =>
    cases hv : (Register.selected sel).isValid s.ce with
    | false => exact .inl ⟨_, .rdrRegister hv, exec_rdr_of_not_valid hv⟩
    | true => exact .inr ⟨_, completed_complete _ _ _, exec_rdr_of_valid hv⟩
  | rdc k =>
    by_cases hk : k.toNat ≤ 17
    · cases hc : s.ce.status.calv with
      | false => exact .inl ⟨_, .rdcCal hk hc, exec_rdc_of_not_calv hk hc⟩
      | true => exact .inr ⟨_, completed_complete _ _ _, exec_rdc_of_calv hk hc⟩
    · exact .inl ⟨_, .rdcIndex hk, exec_rdc_of_index_gt hk s⟩

section Response

variable {i : Instr} {s t : State} {r : Response}

theorem not_completed_of_isFaultCode (hr : t.resp = some r) (hf : isFaultCode r.rcode = true) : ¬ completed t := by
  rintro ⟨r', hr', hlt⟩
  obtain rfl : r = r' := Option.some.inj (hr.symm.trans hr')
  obtain ⟨hlo, _⟩ : 0x10 ≤ r.rcode.toNat ∧ r.rcode.toNat ≤ 0x16 := by simpa [isFaultCode] using hf
  omega

/-- A response with a fault code comes from a fault raised for its cause. -/
theorem exists_faultCause_of_isFaultCode (h : exec i s = .next t) (hr : t.resp = some r)
    (hf : isFaultCode r.rcode = true) : ∃ f, FaultCause s i f ∧ t = s.raise f := by
  rcases exec_faults_or_completes i s with ⟨f, hcause, he⟩ | ⟨u, hu, he⟩
  · exact ⟨f, hcause, Host.Outcome.next.inj (h.symm.trans he)⟩
  · obtain rfl : t = u := Host.Outcome.next.inj (h.symm.trans he)
    exact absurd hu (not_completed_of_isFaultCode hr hf)

end Response

theorem CeFault.eq_imageNotValid_of_code {f : CeFault} (h : f.code = 0x12#8) : f = .imageNotValid := by
  cases f with
  | imageNotValid => rfl
  | _ => exact absurd h (by decide)

/-- R234: of the causes, three are of `IMAGE_NOT_VALID`. -/
theorem FaultCause.command_of_imageNotValid {s : State} {i : Instr} (h : FaultCause s i .imageNotValid) :
    (∃ a, i = .rdb a) ∨ i = .caldec ∨ i = .rawdec := by
  generalize hf : CeFault.imageNotValid = f at h
  cases h with
  | rdbImage _ _ => exact .inl ⟨_, rfl⟩
  | caldecImage _ => exact .inr (.inl rfl)
  | rawdecImage _ => exact .inr (.inr rfl)
  | @rdrRegister sel _ => cases sel <;> cases hf
  | _ => cases hf

/-! ### The statements -/

/-- Settles O37: a fault code is answered only by `raise`, which records the code and answers it. -/
theorem faultsArePrecise : Obligations.FaultsArePrecise := by
  intro i s t r h hr hf
  obtain ⟨f, _, rfl⟩ := exists_faultCause_of_isFaultCode h hr hf
  obtain rfl : ⟨f.code, 0#32⟩ = r := Option.some.inj hr
  rfl

/-- Settles O12: the code has a cause at three commands only, and one byte of the region that is not valid is the
cause at each of them. -/
theorem imageNotValidIsRaisedByThree : Obligations.ImageNotValidIsRaisedByThree := by
  refine ⟨fun i s t h hr => ?_, fun s a ha hread => ?_, fun s a => exec_caldec_of_read_none,
    fun s a => exec_rawdec_of_read_none⟩
  · obtain ⟨f, hcause, rfl⟩ := exists_faultCause_of_isFaultCode h hr (by decide)
    obtain rfl : f = .imageNotValid :=
      CeFault.eq_imageNotValid_of_code (congrArg Response.rcode (Option.some.inj hr))
    exact hcause.command_of_imageNotValid
  · exact exec_rdb_of_memRead_error (Block.memRead_of_not_valid ha hread)

end Sys2Proof.Machine
end

section
/-!
Proofs. Resets, preconditions and good runs (70_reset R260, R263, R278): when a command completes, when a register can
be read, and what the steps after the end of a run can still do.
-/

namespace Sys2Proof.Machine

open Sys2Proof.Safety Sys2Proof.Claims

/-! ### A command completes exactly under its precondition (R263) -/

/-- R62: a region is valid when each of its addresses is. -/
theorem Memory.allValid_iff_ibv (m : Memory) (lo n : Nat) :
    m.allValid lo n = true ↔ ∀ a, lo ≤ a → a < lo + n → m.ibv a = true := by
  simp only [Memory.allValid, List.all_eq_true, List.mem_range]
  refine ⟨fun h a hlo hhi => ?_, fun h i hi => h (lo + i) (by omega) (by omega)⟩
  rw [← Nat.add_sub_cancel' hlo]
  exact h (a - lo) (by omega)

section Preconditions

variable {s : State}

theorem precondition_caldec_iff : precondition .caldec s ↔ s.ce.image.allValid 0 32 = true := by
  simp [Memory.allValid_iff_ibv, precondition]

theorem precondition_rawdec_iff : precondition .rawdec s ↔ s.ce.image.allValid 32 8 = true :=
  (s.ce.image.allValid_iff_ibv 32 8).symm

theorem precondition_rdr_iff (sel : RdrSel) :
    precondition (.rdr sel) s ↔ (Register.selected sel).isValid s.ce = true := by
  cases sel with
  | status => exact iff_of_true trivial rfl
  | _ => exact Iff.rfl

/-- The cause of a fault denies the precondition; the one illegal command is not well-formed. -/
theorem FaultCause.not_precondition {i : Instr} {f : CeFault} (h : FaultCause s i f) (hwf : i.wellFormed = true) :
    ¬ precondition i s := by
  cases h with
  | rdcIndex hk => exact absurd (of_decide_eq_true hwf) hk
  | wrbAddress ha => exact Nat.not_lt.2 ha
  | rdbAddress ha => exact fun ⟨hlt, _⟩ => Nat.not_lt.2 ha hlt
  | rdbImage _ hread => exact fun ⟨_, hv⟩ => by simp [Memory.ibv, hread] at hv
  | caldecImage hv => exact hv ∘ precondition_caldec_iff.1
  | rawdecImage hv => exact hv ∘ precondition_rawdec_iff.1
  | comptCal hc | comppCal hc | comphCal hc => exact fun ⟨hcalv, _⟩ => nomatch hc.symm.trans hcalv
  | rdcCal _ hc => exact fun hcalv => nomatch hc.symm.trans hcalv
  | comptOperand _ ha => exact fun ⟨_, hav⟩ => nomatch ha.symm.trans hav
  | comppOperand _ ha | comphOperand _ ha => exact fun ⟨_, hav, _⟩ => nomatch ha.symm.trans hav
  | comppOrder _ _ ht | comphOrder _ _ ht => exact fun ⟨_, _, htfv⟩ => nomatch ht.symm.trans htfv
  | @rdrRegister sel hv => exact fun hp => nomatch hv.symm.trans ((precondition_rdr_iff sel).1 hp)

/-- A command that raises a fault is not one that has completed. -/
theorem not_completed_of_exec_raise {i : Instr} {t : State} {f : CeFault} (hraise : exec i s = .next (s.raise f))
    (h : exec i s = .next t) : ¬ completed t :=
  Host.Outcome.next.inj (hraise.symm.trans h) ▸ not_completed_raise s f

/-- The guards of a completion are the precondition; those of the three reads are the tests that would have faulted. -/
theorem precondition_of_completed {i : Instr} {t : State} (h : exec i s = .next t) (hc : completed t) :
    precondition i s := by
  cases exec_effect h with
  | fault _ f _ => exact absurd hc (not_completed_raise s f)
  | nop | setadcT _ | setadcP _ | setadcH _ | srst => trivial
  | wrb _ _ ha => exact ha
  | caldec hv => exact precondition_caldec_iff.2 hv
  | rawdec hv => exact precondition_rawdec_iff.2 hv
  | compt hcal ha => exact ⟨hcal, ha⟩
  | compp hcal ha ht | comph hcal ha ht => exact ⟨hcal, ha, ht⟩
  | rdb addr _ =>
    rcases s.ce.memRead_cases addr with ⟨_, hread⟩ | ⟨_, _, hread⟩ | ⟨v, ha, hv, _⟩
    · exact absurd hc (not_completed_of_exec_raise (exec_rdb_of_memRead_error hread) h)
    · exact absurd hc (not_completed_of_exec_raise (exec_rdb_of_memRead_error hread) h)
    · exact ⟨ha, (s.ce.image.ibv_iff _).2 ⟨v, hv⟩⟩
  | rdr sel _ =>
    refine (precondition_rdr_iff sel).2 (Bool.eq_true_of_not_eq_false fun hv => ?_)
    exact not_completed_of_exec_raise (exec_rdr_of_not_valid hv) h hc
  | rdc k _ =>
    refine Bool.eq_true_of_not_eq_false fun hcalv => ?_
    by_cases hk : k.toNat ≤ 17
    · exact not_completed_of_exec_raise (f := .calNotValid) (exec_rdc_of_not_calv hk hcalv) h hc
    · exact not_completed_of_exec_raise (exec_rdc_of_index_gt hk s) h hc

end Preconditions

/-- Settles O39: a command raises a fault, whose cause denies the precondition, or completes, which needs it. -/
theorem commandsCompleteExactlyWhenPrepared : Obligations.CommandsCompleteExactlyWhenPrepared := by
  intro i s hwf
  rcases exec_faults_or_completes i s with ⟨f, hcause, he⟩ | ⟨t, hc, he⟩
  · exact ⟨_, he, iff_of_false (not_completed_raise s f) (hcause.not_precondition hwf)⟩
  · exact ⟨t, he, iff_of_true hc (precondition_of_completed he hc)⟩

end Sys2Proof.Machine

namespace Sys2Proof.Safety

open Sys2Proof.Machine Sys2Proof.Claims

/-! ### Reading a register (R278 with R102, R180, R182) -/

theorem Register.wellFormed_readCommand (r : Register) : r.readCommand.wellFormed = true := by
  cases r with
  | selected sel => rfl
  | coefficient k =>
    have hk : k.val ≤ 17 := by omega
    simpa [Register.readCommand, Instr.wellFormed] using (Nat.mod_le k.val 32).trans hk
  | imageByte a => rfl

theorem Register.precondition_readCommand_iff (r : Register) (s : State) :
    precondition r.readCommand s ↔ r.isValid s.ce = true := by
  cases r with
  | selected sel => exact precondition_rdr_iff sel
  | coefficient k => exact Iff.rfl
  | imageByte a =>
    have ha : (BitVec.ofNat 8 a.val).toNat = a.val := Nat.mod_eq_of_lt (a.isLt.trans (by decide))
    simp only [Register.readCommand, precondition, Register.isValid, ha, a.isLt, true_and]

/-- A register can be read exactly when it is valid. -/
theorem Register.readCommand_completes_iff (r : Register) (s : State) :
    (∃ t, exec r.readCommand s = .next t ∧ completed t) ↔ r.isValid s.ce = true := by
  obtain ⟨t, ht, hiff⟩ := commandsCompleteExactlyWhenPrepared r.readCommand s r.wellFormed_readCommand
  rw [← r.precondition_readCommand_iff, ← hiff]
  refine ⟨fun ⟨u, hu, hc⟩ => ?_, fun hc => ⟨t, ht, hc⟩⟩
  rwa [← Host.Outcome.next.inj (hu.symm.trans ht)]

/-- A read that completes leaves the block as it is. -/
theorem Register.readCommand_keeps_block {r : Register} {s t : State} (h : exec r.readCommand s = .next t)
    (hc : completed t) : t.ce = s.ce := by
  cases r with
  | selected _ | coefficient _ | imageByte _ =>
    cases exec_effect h with
    | fault _ f _ => exact absurd hc (not_completed_raise s f)
    | _ => rfl

/-- R278: a good state is one without a fault in which each register can be read. -/
theorem good_iff_reads_complete (s : State) (reads : List Register) :
    good s reads ↔
      s.ce.status.flt = 0#8 ∧ ∀ r ∈ reads, ∃ t, exec r.readCommand s = .next t ∧ completed t := by
  simp only [good, Register.readCommand_completes_iff]

theorem good_congr {s t : State} {reads : List Register} (h : t.ce = s.ce) : good t reads ↔ good s reads := by
  rw [good, good, h]

/-! ### After the end of a run (R278) -/

/-- The host's command list is at its end: no word waits at the port, and neither the host's procedure nor a call still
to be made can issue one. -/
def ListEnded (s : State) : Prop :=
  s.cmds = [] ∧ procMayIssue s.drv.proc = false ∧ s.drv.calls.any mayIssue = false

theorem runEnded_iff_listEnded (s : State) : runEnded s ↔ ListEnded s ∧ s.resp.isSome = true := by
  simp only [runEnded, ListEnded, and_assoc]

section ListEnded

variable {s t : State}

theorem transferred_of_transfer_done {line : Line} {sent rx : List Byte} {k : Nat}
    (h : s.transfer line sent k = .done rx t) : ∃ more, t = transferred s line sent k more := by
  obtain ⟨_, more, _, _, ht⟩ := State.transfer_done h
  exact ⟨more, ht⟩

/-- A read that finishes has made one transport call, and changed nothing else. -/
theorem transferred_of_hostRead_done {register : Byte} {n : Nat} {data : List Byte}
    (h : s.hostRead register n = .done data t) : ∃ line sent k more, t = transferred s line sent k more := by
  unfold State.hostRead at h
  (repeat' split at h) <;> cases h
  exact ⟨_, _, _, transferred_of_transfer_done ‹_›⟩

/-- A write that finishes has made one transport call, and changed nothing else. -/
theorem transferred_of_hostWrite_done {register : Byte} {n : Nat} {data : List Byte}
    (h : s.hostWrite register data = .done n t) : ∃ line sent k more, t = transferred s line sent k more := by
  unfold State.hostWrite at h
  (repeat' split at h) <;> cases h
  exact ⟨_, _, _, transferred_of_transfer_done ‹_›⟩

theorem ListEnded.transferred (h : ListEnded s) (line : Line) (sent : List Byte) (n : Nat) (more : List (List Byte)) :
    ListEnded (transferred s line sent n more) := h

theorem ListEnded.ended (h : ListEnded s) (r : CallResult) : ListEnded (ended s r) := by
  obtain ⟨hcmds, -, hcalls⟩ := h
  exact ⟨hcmds, rfl, hcalls⟩

/-- A call that cannot issue a command leaves the list at its end. -/
theorem ListEnded.startCall {c : Call} {rest : List Call} (h : ListEnded s) (hc : s.drv.calls = c :: rest) :
    ListEnded (s.startCall c rest) := by
  have ⟨hcmds, hproc, hcalls⟩ := h
  rw [hc, List.any_cons, Bool.or_eq_false_iff] at hcalls
  obtain ⟨hissue, hrest⟩ := hcalls
  have hnext : ListEnded { s with drv := { s.drv with calls := rest } } := ⟨hcmds, hproc, hrest⟩
  cases c with
  | init _ | readSensors | command _ => cases hissue
  | assertReset => exact hnext.ended .done
  | read register count =>
    cases hio : State.hostRead { s with drv := { s.drv with calls := rest } } register count with
    | fails e => rw [State.startCall_read_of_fails hio]; exact hnext.ended _
    | waits => simpa only [State.startCall, hio] using h
    | done data t =>
      obtain ⟨_, _, _, _, rfl⟩ := transferred_of_hostRead_done hio
      rw [State.startCall_read_of_done hio]
      exact (hnext.transferred ..).ended _
  | write register data =>
    cases hio : State.hostWrite { s with drv := { s.drv with calls := rest } } register data with
    | fails e => rw [State.startCall_write_of_fails hio]; exact hnext.ended _
    | waits => simpa only [State.startCall, hio] using h
    | done n t =>
      obtain ⟨_, _, _, _, rfl⟩ := transferred_of_hostWrite_done hio
      rw [State.startCall_write_of_done hio]
      exact (hnext.transferred ..).ended _

/-- The host agent's moves from the two positions that issue nothing: idle, and after `COMPH`. -/
theorem ListEnded.driverStep (h : ListEnded s) : ListEnded s.driverStep := by
  have ⟨_, hproc, _⟩ := h
  unfold State.driverStep
  cases hp : s.drv.proc with
  | idle =>
    cases hc : s.drv.calls with
    | nil => exact h
    | cons c rest => exact h.startCall hc
  | awaitH t p =>
    unfold State.stepAwait
    cases s.completedValue <;> exact h.ended _
  | _ => rw [hp] at hproc; cases hproc

end ListEnded

/-- R278: after the end only the host agent moves, and it does not touch the block's side. -/
theorem runEnded_step {s t : State} (h : runEnded s) (hr : s.resetIn = false) (hstep : step s = .next t) :
    runEnded t ∧ t.ce = s.ce ∧ t.resp = s.resp ∧ t.pos = s.pos := by
  obtain ⟨hlist, hresp⟩ := (runEnded_iff_listEnded s).1 h
  have ⟨hcmds, _, _⟩ := hlist
  have hmoves : hostMoves s := ⟨hr, hcmds⟩
  obtain rfl : s.driverStep = t := Host.Outcome.next.inj ((step_of_hostMoves hmoves).symm.trans hstep)
  obtain ⟨-, hce, hpos, hresp'⟩ := s.driverStep_sameBlockSide
  exact ⟨(runEnded_iff_listEnded _).2 ⟨hlist.driverStep, hresp' ▸ hresp⟩, hce, hresp', hpos⟩

/-! ### The statements -/

/-- Settles O60: after the end only the host agent moves; a register can be read exactly when it is valid, and a read
that completes leaves the block, on which goodness depends, as it is. -/
theorem endedRunsAndGoodStates : Obligations.EndedRunsAndGoodStates := by
  refine ⟨fun s t => runEnded_step, fun s reads => ⟨good_iff_reads_complete s reads, fun hgood r hr => ?_⟩⟩
  obtain ⟨_, hreads⟩ := (good_iff_reads_complete s reads).1 hgood
  obtain ⟨t, ht, hc⟩ := hreads r hr
  exact ⟨t, ht, (good_congr (Register.readCommand_keeps_block ht hc)).2 hgood⟩

/-- Settles O48: the hardware reset and `SRST` put the same block in place, that of the reset state. -/
theorem hardwareResetGivesTheResetState : Obligations.HardwareResetGivesTheResetState := by
  intro s hr
  exact ⟨Block.reset, step_of_resetIn hr, .refl _, rfl, fun _ => rfl, _, rfl, .refl _⟩

end Sys2Proof.Safety
end
